-- ==== Sys2Proof/Word.lean ====
section
/-! DEFINITION. The word type of PWCE and the plain measures of a natural number (spec 00_scope.md rules R8, R9). -/

namespace Sys2Proof

/-- A 32-bit word: the width of every control register, of an operand word and of a command word (R7, R9). -/
abbrev Word := BitVec 32

/-- `bitlen(v)` of R8: the number of bits of `v`, 0 for `v = 0`. -/
def bitlen (v : Nat) : Nat := if v = 0 then 0 else v.log2 + 1

/-- The number of 32-bit words that hold a value of `n` bits, at least one (R8, R24). -/
def wordsForBits (n : Nat) : Nat := max 1 ((n + 31) / 32)

/-- `clen(v)` of R8: the canonical word count of `v`; the value 0 takes one word (R24). -/
def clen (v : Nat) : Nat := wordsForBits (bitlen v)

end Sys2Proof
end

