-- ==== Sys2Proof/Syntax.lean ====
section
/-! DEFINITION. The commands of PWCE as syntax: one constructor per row of the opcode map (30_encoding.md rule R87). -/

namespace Sys2Proof

/-- A register field: k names operand register Bk, and all 16 values are valid (R82). -/
abbrev RegId := Fin 16

/-- The 24 commands. Arguments stand in the order of the assembler syntax (R83, R91): destinations
first (RD, RE, RF), then sources (RA, RB, RC). ARG is no part of a command word (R85). -/
inductive Instr where
  | mov (d a : RegId)
  | ldi (d : RegId)
  | add (d a b : RegId)
  | sub (d a b : RegId)
  | mul (d a b : RegId)
  | divq (d a b : RegId)
  | mod (d a b : RegId)
  | divrem (d e a b : RegId)
  | addm (d a b c : RegId)
  | subm (d a b c : RegId)
  | mulm (d a b c : RegId)
  | divm (d a b c : RegId)
  | expm (d a b c : RegId)
  | shift (d a : RegId)
  | testbit (a : RegId)
  | setbit (d : RegId)
  | cmp (a b : RegId)
  | isz (a : RegId)
  | digest256 (d a : RegId)
  | digest512 (d a : RegId)
  | gcd (d a b : RegId)
  | eea (d e f a b c : RegId)
  | minv (d a c : RegId)
  | isprime (a : RegId)
  deriving DecidableEq, Repr

/-- The destination registers of a command (R83); SETBIT's RD is also its source. -/
def Instr.dests : Instr → List RegId
  | .mov d _ => [d]
  | .ldi d => [d]
  | .add d _ _ => [d]
  | .sub d _ _ => [d]
  | .mul d _ _ => [d]
  | .divq d _ _ => [d]
  | .mod d _ _ => [d]
  | .divrem d e _ _ => [d, e]
  | .addm d _ _ _ => [d]
  | .subm d _ _ _ => [d]
  | .mulm d _ _ _ => [d]
  | .divm d _ _ _ => [d]
  | .expm d _ _ _ => [d]
  | .shift d _ => [d]
  | .testbit _ => []
  | .setbit d => [d]
  | .cmp _ _ => []
  | .isz _ => []
  | .digest256 d _ => [d]
  | .digest512 d _ => [d]
  | .gcd d _ _ => [d]
  | .eea d e f _ _ _ => [d, e, f]
  | .minv d _ _ => [d]
  | .isprime _ => []

/-- The source registers of a command (R83). -/
def Instr.sources : Instr → List RegId
  | .mov _ a => [a]
  | .ldi _ => []
  | .add _ a b => [a, b]
  | .sub _ a b => [a, b]
  | .mul _ a b => [a, b]
  | .divq _ a b => [a, b]
  | .mod _ a b => [a, b]
  | .divrem _ _ a b => [a, b]
  | .addm _ a b c => [a, b, c]
  | .subm _ a b c => [a, b, c]
  | .mulm _ a b c => [a, b, c]
  | .divm _ a b c => [a, b, c]
  | .expm _ a b c => [a, b, c]
  | .shift _ a => [a]
  | .testbit a => [a]
  | .setbit d => [d]
  | .cmp a b => [a, b]
  | .isz a => [a]
  | .digest256 _ a => [a]
  | .digest512 _ a => [a]
  | .gcd _ a b => [a, b]
  | .eea _ _ _ a b c => [a, b, c]
  | .minv _ a c => [a, c]
  | .isprime a => [a]

end Sys2Proof
end

