-- ==== Sys2Proof/WellFormed.lean ====
section
/-! DEFINITION. Which commands are legal beyond the shape of their fields: distinct destinations (30_encoding.md rule R89).
Register fields need no check, since `RegId` holds exactly the 16 register names (R82). -/

namespace Sys2Proof

/-- R89: DIVREM needs RD ≠ RE; EEA needs RD, RE, RF pairwise distinct; every other command has at most
one destination. Sources may repeat and may equal a destination. -/
def Instr.wellFormed : Instr → Bool
  | .mov _ _ => true
  | .ldi _ => true
  | .add _ _ _ => true
  | .sub _ _ _ => true
  | .mul _ _ _ => true
  | .divq _ _ _ => true
  | .mod _ _ _ => true
  | .divrem d e _ _ => d != e
  | .addm _ _ _ _ => true
  | .subm _ _ _ _ => true
  | .mulm _ _ _ _ => true
  | .divm _ _ _ _ => true
  | .expm _ _ _ _ => true
  | .shift _ _ => true
  | .testbit _ => true
  | .setbit _ => true
  | .cmp _ _ => true
  | .isz _ => true
  | .digest256 _ _ => true
  | .digest512 _ _ => true
  | .gcd _ _ _ => true
  | .eea d e f _ _ _ => d != e && d != f && e != f
  | .minv _ _ _ => true
  | .isprime _ => true

end Sys2Proof
end

