-- ==== Sys2Proof/Decode.lean ====
section
/-! DEFINITION. The command word: its fields (30_encoding.md rule R81), the opcode map (R87), the decoder (R90), the
encoder, and the assembler spelling (R91). -/

namespace Sys2Proof

/-- The six register fields of a command word (R81). -/
structure Fields where
  d : RegId
  e : RegId
  a : RegId
  b : RegId
  c : RegId
  f : RegId
  deriving DecidableEq, Repr

/-- OPC, bits 7:0 of a command word (R81). -/
def opcField (cw : Word) : BitVec 8 := cw.extractLsb' 0 8

/-- The four-bit register field whose lowest bit is bit `lo` of the command word (R81, R82). -/
def regField (cw : Word) (lo : Nat) : RegId := (cw.extractLsb' lo 4).toFin

/-- The register fields of a command word: RD 11:8, RE 15:12, RA 19:16, RB 23:20, RC 27:24, RF 31:28 (R81). -/
def fieldsOf (cw : Word) : Fields :=
  { d := regField cw 8, e := regField cw 12, a := regField cw 16,
    b := regField cw 20, c := regField cw 24, f := regField cw 28 }

/-- One row of the opcode map (R87): `match` and `mask` of the table, and the command its fields make. -/
structure OpRow where
  mnemonic : String
  opc : BitVec 8
  pattern : Word
  mask : Word
  build : Fields → Instr

/-- R87, group 0x0_: register transfer. -/
def moveRows : List OpRow :=
  [ ⟨"MOV", 0x01, 0x00000001, 0xFFF0F0FF, fun r => .mov r.d r.a⟩,
    ⟨"LDI", 0x02, 0x00000002, 0xFFFFF0FF, fun r => .ldi r.d⟩ ]

/-- R87, group 0x1_: base arithmetic. -/
def arithRows : List OpRow :=
  [ ⟨"ADD", 0x10, 0x00000010, 0xFF00F0FF, fun r => .add r.d r.a r.b⟩,
    ⟨"SUB", 0x11, 0x00000011, 0xFF00F0FF, fun r => .sub r.d r.a r.b⟩,
    ⟨"MUL", 0x12, 0x00000012, 0xFF00F0FF, fun r => .mul r.d r.a r.b⟩,
    ⟨"DIVQ", 0x13, 0x00000013, 0xFF00F0FF, fun r => .divq r.d r.a r.b⟩,
    ⟨"MOD", 0x14, 0x00000014, 0xFF00F0FF, fun r => .mod r.d r.a r.b⟩,
    ⟨"DIVREM", 0x15, 0x00000015, 0xFF0000FF, fun r => .divrem r.d r.e r.a r.b⟩ ]

/-- R87, group 0x2_: modular arithmetic and exponentiation. -/
def modularRows : List OpRow :=
  [ ⟨"ADDM", 0x20, 0x00000020, 0xF000F0FF, fun r => .addm r.d r.a r.b r.c⟩,
    ⟨"SUBM", 0x21, 0x00000021, 0xF000F0FF, fun r => .subm r.d r.a r.b r.c⟩,
    ⟨"MULM", 0x22, 0x00000022, 0xF000F0FF, fun r => .mulm r.d r.a r.b r.c⟩,
    ⟨"DIVM", 0x23, 0x00000023, 0xF000F0FF, fun r => .divm r.d r.a r.b r.c⟩,
    ⟨"EXPM", 0x24, 0x00000024, 0xF000F0FF, fun r => .expm r.d r.a r.b r.c⟩ ]

/-- R87, group 0x3_: shift, bit and compare. -/
def bitRows : List OpRow :=
  [ ⟨"SHIFT", 0x30, 0x00000030, 0xFFF0F0FF, fun r => .shift r.d r.a⟩,
    ⟨"TESTBIT", 0x31, 0x00000031, 0xFFF0FFFF, fun r => .testbit r.a⟩,
    ⟨"SETBIT", 0x32, 0x00000032, 0xFFFFF0FF, fun r => .setbit r.d⟩,
    ⟨"CMP", 0x33, 0x00000033, 0xFF00FFFF, fun r => .cmp r.a r.b⟩,
    ⟨"ISZ", 0x34, 0x00000034, 0xFFF0FFFF, fun r => .isz r.a⟩ ]

/-- R87, groups 0x4_ (hash) and 0x5_ (number theory). -/
def hashTheoryRows : List OpRow :=
  [ ⟨"DIGEST256", 0x40, 0x00000040, 0xFFF0F0FF, fun r => .digest256 r.d r.a⟩,
    ⟨"DIGEST512", 0x41, 0x00000041, 0xFFF0F0FF, fun r => .digest512 r.d r.a⟩,
    ⟨"GCD", 0x50, 0x00000050, 0xFF00F0FF, fun r => .gcd r.d r.a r.b⟩,
    ⟨"EEA", 0x51, 0x00000051, 0x000000FF, fun r => .eea r.d r.e r.f r.a r.b r.c⟩,
    ⟨"MINV", 0x52, 0x00000052, 0xF0F0F0FF, fun r => .minv r.d r.a r.c⟩,
    ⟨"ISPRIME", 0x53, 0x00000053, 0xFFF0FFFF, fun r => .isprime r.a⟩ ]

/-- The opcode map of R87. -/
def opcodeMap : List OpRow := moveRows ++ arithRows ++ modularRows ++ bitRows ++ hashTheoryRows

/-- Why a command word does not decode, in the order R226 checks. Each one completes with E_ILLEGAL (R88, R84, R89). -/
inductive Illegal where
  /-- OPC names no row of the opcode map (R88); 0x00 is one of these. -/
  | reservedOpcode
  /-- A field the row's shape does not use is not 0 (R84). -/
  | unusedField
  /-- Two destination fields name the same register (R89). -/
  | equalDestinations
  deriving DecidableEq, Repr

/-- R90: total on every 32-bit word. -/
def decode (cw : Word) : Except Illegal Instr :=
  match opcodeMap.find? (fun row => row.opc == opcField cw) with
  | none => .error .reservedOpcode
  | some row =>
    if cw &&& row.mask = row.pattern then
      let i := row.build (fieldsOf cw)
      if i.wellFormed then .ok i else .error .equalDestinations
    else .error .unusedField

/-- A register field as its four bits. -/
def regBits (r : RegId) : BitVec 4 := BitVec.ofFin r

/-- A command word laid out from its fields, most significant first: RF RC RB RA RE RD OPC (R81). -/
def packWord (opc : BitVec 8) (r : Fields) : Word :=
  regBits r.f ++ regBits r.c ++ regBits r.b ++ regBits r.a ++ regBits r.e ++ regBits r.d ++ opc

/-- The command word of a command: its OPC of R87, its fields in their places (R81), 0 in every unused field (R84). -/
def encode : Instr → Word
  | .mov d a => packWord 0x01 ⟨d, 0, a, 0, 0, 0⟩
  | .ldi d => packWord 0x02 ⟨d, 0, 0, 0, 0, 0⟩
  | .add d a b => packWord 0x10 ⟨d, 0, a, b, 0, 0⟩
  | .sub d a b => packWord 0x11 ⟨d, 0, a, b, 0, 0⟩
  | .mul d a b => packWord 0x12 ⟨d, 0, a, b, 0, 0⟩
  | .divq d a b => packWord 0x13 ⟨d, 0, a, b, 0, 0⟩
  | .mod d a b => packWord 0x14 ⟨d, 0, a, b, 0, 0⟩
  | .divrem d e a b => packWord 0x15 ⟨d, e, a, b, 0, 0⟩
  | .addm d a b c => packWord 0x20 ⟨d, 0, a, b, c, 0⟩
  | .subm d a b c => packWord 0x21 ⟨d, 0, a, b, c, 0⟩
  | .mulm d a b c => packWord 0x22 ⟨d, 0, a, b, c, 0⟩
  | .divm d a b c => packWord 0x23 ⟨d, 0, a, b, c, 0⟩
  | .expm d a b c => packWord 0x24 ⟨d, 0, a, b, c, 0⟩
  | .shift d a => packWord 0x30 ⟨d, 0, a, 0, 0, 0⟩
  | .testbit a => packWord 0x31 ⟨0, 0, a, 0, 0, 0⟩
  | .setbit d => packWord 0x32 ⟨d, 0, 0, 0, 0, 0⟩
  | .cmp a b => packWord 0x33 ⟨0, 0, a, b, 0, 0⟩
  | .isz a => packWord 0x34 ⟨0, 0, a, 0, 0, 0⟩
  | .digest256 d a => packWord 0x40 ⟨d, 0, a, 0, 0, 0⟩
  | .digest512 d a => packWord 0x41 ⟨d, 0, a, 0, 0, 0⟩
  | .gcd d a b => packWord 0x50 ⟨d, 0, a, b, 0, 0⟩
  | .eea d e f a b c => packWord 0x51 ⟨d, e, a, b, c, f⟩
  | .minv d a c => packWord 0x52 ⟨d, 0, a, 0, c, 0⟩
  | .isprime a => packWord 0x53 ⟨0, 0, a, 0, 0, 0⟩

/-- The first `nbits` bits of a table word as a command word (a command is one 32-bit word, R80, R93). -/
def tableWord (nbits w : Nat) : Word := BitVec.ofNat 32 (w % 2 ^ nbits)

/-- What the decoder reads from the bits of a row of spec/opcode_table.json. -/
def decodeTableWord (nbits w : Nat) : Option Instr :=
  match decode (tableWord nbits w) with
  | .ok i => some i
  | .error _ => none

/-- The name of an operand register in assembler text (R91). -/
def regName (r : RegId) : String := "B" ++ toString r.val

/-- A command as assembler text (R91): its mnemonic, then the used register fields in shape order. -/
def asmLine (mnemonic : String) (rs : List RegId) : String :=
  mnemonic ++ " " ++ String.intercalate ", " (rs.map regName)

/-- The assembler spelling of a command (R91). -/
def Instr.asm : Instr → String
  | .mov d a => asmLine "MOV" [d, a]
  | .ldi d => asmLine "LDI" [d]
  | .add d a b => asmLine "ADD" [d, a, b]
  | .sub d a b => asmLine "SUB" [d, a, b]
  | .mul d a b => asmLine "MUL" [d, a, b]
  | .divq d a b => asmLine "DIVQ" [d, a, b]
  | .mod d a b => asmLine "MOD" [d, a, b]
  | .divrem d e a b => asmLine "DIVREM" [d, e, a, b]
  | .addm d a b c => asmLine "ADDM" [d, a, b, c]
  | .subm d a b c => asmLine "SUBM" [d, a, b, c]
  | .mulm d a b c => asmLine "MULM" [d, a, b, c]
  | .divm d a b c => asmLine "DIVM" [d, a, b, c]
  | .expm d a b c => asmLine "EXPM" [d, a, b, c]
  | .shift d a => asmLine "SHIFT" [d, a]
  | .testbit a => asmLine "TESTBIT" [a]
  | .setbit d => asmLine "SETBIT" [d]
  | .cmp a b => asmLine "CMP" [a, b]
  | .isz a => asmLine "ISZ" [a]
  | .digest256 d a => asmLine "DIGEST256" [d, a]
  | .digest512 d a => asmLine "DIGEST512" [d, a]
  | .gcd d a b => asmLine "GCD" [d, a, b]
  | .eea d e f a b c => asmLine "EEA" [d, e, f, a, b, c]
  | .minv d a c => asmLine "MINV" [d, a, c]
  | .isprime a => asmLine "ISPRIME" [a]

end Sys2Proof
end

