-- ==== Sys2Proof/Config.lean ====
section
/-! DEFINITION. What one build of PWCE fixes (the OPEN parameters of 00_scope.md rule R7) and the model's free values.
A parameter is an argument of the model: it stands in `State.cfg`, and no step changes it (log entry 1). -/

namespace Sys2Proof

/-- MR_TAIL, the Miller-Rabin witnesses 12 to 14 (R204), which the spec leaves open. -/
structure MrTail where
  t0 : Nat
  t1 : Nat
  t2 : Nat
  deriving DecidableEq, Repr

/-- What R204 says of MR_TAIL and no more: each of the three is above 31, and the largest is in 100 .. 999. -/
abbrev MrTail.legal (m : MrTail) : Prop :=
  31 < m.t0 ∧ 31 < m.t1 ∧ 31 < m.t2 ∧
    100 ≤ max m.t0 (max m.t1 m.t2) ∧ max m.t0 (max m.t1 m.t2) ≤ 999

/-- The OPEN parameters of R7: MAXW, BASE and MR_TAIL. -/
structure Config where
  maxw : Nat
  base : Nat
  mrTail : MrTail
  deriving DecidableEq, Repr

/-- The ranges R7 and R204 give the parameters. -/
abbrev Config.legal (c : Config) : Prop :=
  16 ≤ c.maxw ∧ c.maxw ≤ 1024 ∧ c.base % 0x20000 = 0 ∧ c.mrTail.legal

/-- Free value: the word a host read of FLAGS, REGLEN or REGWORD gives while BUSY = 1, applied to the
state's draw counter (R58, item I1 of 93_implementation_defined.md; log entry 6). -/
opaque Config.freeWord : Nat → Word

/-- Free value: three unconstrained naturals from which MR_TAIL of the reset state is made (log entry 2). -/
opaque Config.freeTail : Nat × Nat × Nat

/-- Folds three naturals into the set R204 allows; every legal MR_TAIL is the image of itself. -/
def MrTail.fromFree (r : Nat × Nat × Nat) : MrTail :=
  let fold := fun n : Nat => if 31 < n ∧ n ≤ 999 then n else 32 + n % 968
  let a := fold r.1
  let b := fold r.2.1
  let c := fold r.2.2
  if 100 ≤ max a (max b c) then ⟨a, b, c⟩ else ⟨a, b, 100 + c % 900⟩

/-- DESIGN CHOICE (log entries 1, 2): the build that `State.reset` is written for. MAXW is the value R7
suggests, BASE the lowest one R7 allows, MR_TAIL free. No statement of the model is about this build alone. -/
def Config.suggested : Config :=
  { maxw := 256, base := 0, mrTail := MrTail.fromFree Config.freeTail }

end Sys2Proof
end

