-- ==== Sys2Proof/Machine/State.lean ====
section
/-! DEFINITION. The state of PWCE (10_state.md), the accesses that reach its port (20_memory.md), the reasons a step
stops, and the state after reset (70_reset_and_hazards.md rules R250 to R252). -/

namespace Sys2Proof.Machine

/-- No constructor: nothing in PWCE is a fault of the model, since every error is a defined completion
(R225, R229, and section 1 of 93_implementation_defined.md). Nobody raises one; that is safe. -/
inductive Fault where
  deriving DecidableEq, Repr

/-- Why the model gives no step. -/
inductive Refusal where
  /-- Raised by an arm of `exec` for a command without a meaning; no arm raises it in this model. Safe. -/
  | notModelled (mnemonic : String)
  /-- Raised by a host access that is not a single aligned 32-bit access inside the window (R51, item I2 of
  93_implementation_defined.md): it has no defined effect. Safe: nothing can be proved past it. -/
  | accessNotAdmitted
  deriving DecidableEq, Repr

/-- Operand register Bi (R21): LEN, and the storage words, word 0 first. In a state that meets the
invariant the storage has MAXW words and every word at or above LEN is 0 (R22). -/
structure Reg where
  len : Nat
  w : List Word
  deriving DecidableEq, Repr

/-- FLAGS (R30). -/
structure Flags where
  lt : Bool
  eq : Bool
  gt : Bool
  t : Bool
  deriving DecidableEq, Repr

/-- The error codes of R220; the reserved codes 6 .. 255 are never produced, so they have no name here. -/
inductive ErrCode where
  /-- 0, OK. -/
  | ok
  /-- 1, E_ILLEGAL: the command word does not decode. -/
  | illegal
  /-- 2, E_DIVZERO: a divisor or a modulus is 0. -/
  | divzero
  /-- 3, E_UNDER: a subtraction would be negative. -/
  | under
  /-- 4, E_ARG: a digest operand is out of range. -/
  | arg
  /-- 5, E_CAP: the result needs more than MAXW words. -/
  | cap
  deriving DecidableEq, Repr

/-- A full PENDING slot (R39): the command word and the ARG captured with it. -/
structure Pending where
  word : Word
  arg : Word
  deriving DecidableEq, Repr

/-- How an access is put on the bus. R51 admits single accesses only. -/
inductive BusMode where
  | single
  | burst
  | locked
  deriving DecidableEq, Repr

/-- What an access asks for. -/
inductive AccessKind where
  | read
  | write (data : Word)
  deriving DecidableEq, Repr

/-- A host access as it arrives at the port: byte address, width in bytes, bus mode, read or write. -/
structure Access where
  addr : Nat
  width : Nat
  mode : BusMode
  kind : AccessKind
  deriving DecidableEq, Repr

/-- One entry of the order in which the agents move (R6, R63): a host access, a turn of the engine, or the
platform asserting RST (R250). -/
inductive Event where
  | access (a : Access)
  | engine
  | hardReset
  deriving DecidableEq, Repr

/-- The machine. BUSY, ERR, IRQ, CAPS, REGLEN and REGWORD have no field: each is computed from the fields
here (R34, R37, R38, R39, R40; log entry 16). -/
structure State where
  /-- The parameters of this build (R7); no step changes them (log entry 1). -/
  cfg : Config
  /-- B0 .. B15 (R20, R21). -/
  regs : Vector Reg 16
  /-- FLAGS (R30). -/
  flags : Flags
  /-- CTRL.IE (R33). -/
  ie : Bool
  /-- STATUS.DONE (R34). -/
  done : Bool
  /-- STATUS.HERR (R34). -/
  herr : Bool
  /-- STATUS.ERRCODE (R34, R220). -/
  errcode : ErrCode
  /-- ARG (R35). -/
  arg : Word
  /-- The CMD read-back: the last accepted command word (R36). -/
  cmd : Word
  /-- PENDING (R39): `none` when empty. -/
  pending : Option Pending
  /-- The model's own: what reaches the port and whose turn it is, oldest first (log entry 3). -/
  inputs : List Event
  /-- The model's own: the data of the most recent admitted read, `none` before the first (log entry 5). -/
  readData : Option Word
  /-- The model's own: how many draws of R58 have been taken (log entry 6). -/
  draws : Nat
  deriving DecidableEq, Repr

/-- An operand register after reset (R42): LEN 0 and every word 0. -/
def Reg.empty (maxw : Nat) : Reg := ⟨0, List.replicate maxw 0⟩

/-- FLAGS after reset (R42). -/
def Flags.clear : Flags := ⟨false, false, false, false⟩

/-- The state after reset of the build `cfg` (R42, R251), with no access on its way. -/
def State.resetOf (cfg : Config) : State :=
  { cfg := cfg
    regs := Vector.replicate 16 (Reg.empty cfg.maxw)
    flags := Flags.clear
    ie := false
    done := false
    herr := false
    errcode := .ok
    arg := 0
    cmd := 0
    pending := none
    inputs := []
    readData := none
    draws := 0 }

/-- The state after reset, for the build `Config.suggested` (log entries 1, 2). -/
def State.reset : State := State.resetOf Config.suggested

end Sys2Proof.Machine
end

