-- ==== Sys2Proof/Machine/Ops.lean ====
section
/-! DEFINITION. The named operations over registers, the parameters and PENDING: reading a value (R23), the canonical
write (R25), the end of a command with or without an error (R224, R225), acceptance (R222) and reset (R251). -/

namespace Sys2Proof.Machine

/-- Bits 32j+31 : 32j of a value (R25). -/
def wordOf (v j : Nat) : Word := BitVec.ofNat 32 (v / 2 ^ (32 * j))

/-- The lowest `n` words of a value, word 0 first (R9, R25). -/
def toWords : Nat → Nat → List Word
  | 0, _ => []
  | n + 1, v => BitVec.ofNat 32 v :: toWords n (v / 2 ^ 32)

/-- The value of a list of words, word 0 first: the sum of w[j] * 2^(32j) (R9, R23). -/
def valueOf : List Word → Nat
  | [] => 0
  | w :: ws => w.toNat + 2 ^ 32 * valueOf ws

/-- Word j of a register, 0 outside the storage (R22, R57; log entry 20). -/
def Reg.word (r : Reg) (j : Nat) : Word := r.w.getD j 0

/-- x[i] (R23). -/
def Reg.value (r : Reg) : Nat := valueOf r.w

/-- A register that holds `v` in `n` words of LEN (R25, R179); the words above are those of `v`, so 0 when `v` fits. -/
def Reg.ofValue (maxw n v : Nat) : Reg := ⟨n, toWords maxw v⟩

/-- The LEN write of R55: the words at and above the new LEN become 0. -/
def Reg.setLen (r : Reg) (n : Nat) : Reg :=
  ⟨n, r.w.take n ++ List.replicate (r.w.length - n) 0⟩

/-- One word of storage replaced, LEN unchanged (R56, R152). -/
def Reg.setWord (r : Reg) (j : Nat) (v : Word) : Reg := ⟨r.len, r.w.set j v⟩

/-- Operand register Bi. -/
def State.reg (s : State) (i : RegId) : Reg := s.regs.get i

/-- x[i], the value of Bi (R23). -/
def State.x (s : State) (i : RegId) : Nat := (s.reg i).value

/-- len[i] (R21). -/
def State.len (s : State) (i : RegId) : Nat := (s.reg i).len

/-- w[i][j] (R21). -/
def State.word (s : State) (i : RegId) (j : Nat) : Word := (s.reg i).word j

/-- Bi replaced as a whole. -/
def State.setReg (s : State) (i : RegId) (r : Reg) : State :=
  { s with regs := s.regs.set i.val r i.isLt }

/-- The canonical write `x[i] <- v` (R25). -/
def State.writeValue (s : State) (i : RegId) (v : Nat) : State :=
  s.setReg i (Reg.ofValue s.cfg.maxw (clen v) v)

/-- The digest write of R179: LEN is `n` whatever the value. -/
def State.writeFixed (s : State) (i : RegId) (n v : Nat) : State :=
  s.setReg i (Reg.ofValue s.cfg.maxw n v)

/-- `v` is representable in an operand register (R26). -/
def State.fits (s : State) (v : Nat) : Bool := clen v ≤ s.cfg.maxw

/-- STATUS.BUSY = 1 exactly when PENDING is full (R39). -/
def State.busy (s : State) : Bool := s.pending.isSome

/-- STATUS.ERR (R34). -/
def State.err (s : State) : Bool := s.errcode != .ok

/-- The IRQ output (R40, R227). -/
def State.irq (s : State) : Bool := s.ie && s.done

/-- The number of an error code (R220). -/
def ErrCode.code : ErrCode → Nat
  | .ok => 0
  | .illegal => 1
  | .divzero => 2
  | .under => 3
  | .arg => 4
  | .cap => 5

/-- The last lines of `complete()` (R224): PENDING empty, so BUSY = 0; DONE = 1; ERRCODE = `code`. -/
def State.complete (s : State) (code : ErrCode) : State :=
  { s with pending := none, done := true, errcode := code }

/-- A command that succeeds: `s` already holds what its rule wrote (R224). -/
def succeed (s : State) : Host.Outcome State Fault Refusal := .next (s.complete .ok)

/-- A command that raises an error (R225): from the state it began in, nothing but STATUS changes. PWCE takes
no trap (R229); this is all there is to entering the handling of an error. -/
def raise (code : ErrCode) (s : State) : Host.Outcome State Fault Refusal := .next (s.complete code)

/-- The write of a command that has one destination and can exceed the capacity (R26): E_CAP, or the canonical write. -/
def writeOrCap (s : State) (d : RegId) (v : Nat) : Host.Outcome State Fault Refusal :=
  if s.fits v then succeed (s.writeValue d v) else raise .cap s

/-- Acceptance of the command word `cw` (R222). BUSY becomes 1 because PENDING is filled. -/
def State.accept (s : State) (cw : Word) : State :=
  { s with pending := some ⟨cw, s.arg⟩, cmd := cw, done := false, errcode := .ok }

/-- The effect of a reset, hard or soft (R250, R251). The parameters, what is still on its way to the port, the last
read data and the draw counter are no state of PWCE and stay (log entries 1, 3, 5, 6). -/
def State.resetDevice (s : State) : State :=
  { State.resetOf s.cfg with inputs := s.inputs, readData := s.readData, draws := s.draws }

/-- The input order replaced; the device is untouched. -/
def State.withInputs (s : State) (l : List Event) : State := { s with inputs := l }

/-- STATUS.HERR <- 1 (R54 to R58, R223). -/
def State.setHerr (s : State) : State := { s with herr := true }

end Sys2Proof.Machine
end

