-- ==== Sys2Proof/Machine/Arith.lean ====
section
/-! DEFINITION. Base arithmetic (41_arith.md): ADD, SUB, MUL, DIVQ, MOD, DIVREM, with the reference division of R116 and
the word-level forms of R110 to R112. -/

namespace Sys2Proof.Machine

/-- The loop of R116 with `i` quotient bits left: test and subtract, then shift the divisor's copy right. -/
def divideLoop : Nat → Nat → Nat → Nat → Nat × Nat
  | 0, _, r, q => (q, r)
  | i + 1, dv, r, q =>
    if r ≥ dv then divideLoop i (dv / 2) (r - dv) (q + 2 ^ i) else divideLoop i (dv / 2) r q

/-- `restoring_divide(a, b)` of R116, for b > 0: quotient and remainder. -/
def restoringDivide (a b : Nat) : Nat × Nat :=
  if a < b then (0, a)
  else
    let k := bitlen a - bitlen b
    divideLoop (k + 1) (b * 2 ^ k) a 0

/-- R110. -/
def execAdd (d a b : RegId) (s : State) : Host.Outcome State Fault Refusal :=
  writeOrCap s d (s.x a + s.x b)

/-- R111. -/
def execSub (d a b : RegId) (s : State) : Host.Outcome State Fault Refusal :=
  if s.x a < s.x b then raise .under s else succeed (s.writeValue d (s.x a - s.x b))

/-- R112: the capacity check is on the product, not on the operands' lengths. -/
def execMul (d a b : RegId) (s : State) : Host.Outcome State Fault Refusal :=
  writeOrCap s d (s.x a * s.x b)

/-- R113. -/
def execDivq (d a b : RegId) (s : State) : Host.Outcome State Fault Refusal :=
  if s.x b = 0 then raise .divzero s
  else succeed (s.writeValue d (restoringDivide (s.x a) (s.x b)).1)

/-- R114. -/
def execMod (d a b : RegId) (s : State) : Host.Outcome State Fault Refusal :=
  if s.x b = 0 then raise .divzero s
  else succeed (s.writeValue d (restoringDivide (s.x a) (s.x b)).2)

/-- R115. With RD = RE the command is illegal (R89): the decoder never passes such a command, and this arm of its own
gives it the E_ILLEGAL completion all the same (log entry 10). -/
def execDivrem (d e a b : RegId) (s : State) : Host.Outcome State Fault Refusal :=
  if d = e then raise .illegal s
  else if s.x b = 0 then raise .divzero s
  else
    let qr := restoringDivide (s.x a) (s.x b)
    succeed ((s.writeValue d qr.1).writeValue e qr.2)

/-- The word-level addition of R110 over `n` word positions with carry in `c`; a position past the end reads 0. -/
def addWords : Nat → List Word → List Word → Nat → List Word
  | 0, _, _, _ => []
  | n + 1, a, b, c =>
    let sum := (a.headD 0).toNat + (b.headD 0).toNat + c
    BitVec.ofNat 32 (sum % 2 ^ 32) :: addWords n a.tail b.tail (sum / 2 ^ 32)

/-- The word-level subtraction of R111 over `n` word positions with borrow in `br`; the final borrow beside the words. -/
def subWords : Nat → List Word → List Word → Nat → List Word × Nat
  | 0, _, _, br => ([], br)
  | n + 1, a, b, br =>
    let diff : Int := (a.headD 0).toNat - (b.headD 0).toNat - br
    let here := if diff < 0 then (BitVec.ofInt 32 (diff + 2 ^ 32), 1) else (BitVec.ofInt 32 diff, 0)
    let rest := subWords n a.tail b.tail here.2
    (here.1 :: rest.1, rest.2)

/-- Adds `p` into an accumulator at word `pos`, the carry propagated upward (R112). -/
def accumulate : List Word → Nat → Nat → List Word
  | [], _, _ => []
  | w :: ws, 0, p => BitVec.ofNat 32 ((w.toNat + p) % 2 ^ 32) :: accumulate ws 0 ((w.toNat + p) / 2 ^ 32)
  | w :: ws, pos + 1, p => w :: accumulate ws pos p

/-- One row of the grade-school product (R112): the words of `b` times the word `m`, added in from word `pos` up. -/
def accumulateRow (acc : List Word) (m : Word) : List Word → Nat → List Word
  | [], _ => acc
  | y :: ys, pos => accumulateRow (accumulate acc pos (m.toNat * y.toNat)) m ys (pos + 1)

/-- All rows of the grade-school product from word `pos` of the first factor up (R112). -/
def accumulateRows (acc : List Word) (b : List Word) : List Word → Nat → List Word
  | [], _ => acc
  | m :: ms, pos => accumulateRows (accumulateRow acc m b pos) b ms (pos + 1)

/-- The word-level product of R112: an accumulator of len a + len b words, all 0, and every 64-bit product added in. -/
def mulWords (a b : List Word) : List Word :=
  accumulateRows (List.replicate (a.length + b.length) 0) b a 0

end Sys2Proof.Machine
end

