-- ==== Sys2Proof/Machine/Flags.lean ====
section
/-! DEFINITION. The flag computations (10_state.md rules R30, R31): CMP writes LT, EQ and GT; TESTBIT, ISZ, ISPRIME and
MINV write T. -/

namespace Sys2Proof.Machine

/-- LT, EQ, GT of comparing two values; T unchanged (R31, R153). -/
def Flags.compare (f : Flags) (a b : Nat) : Flags :=
  { f with lt := decide (a < b), eq := decide (a = b), gt := decide (a > b) }

/-- T written; LT, EQ, GT unchanged (R31). -/
def Flags.setT (f : Flags) (b : Bool) : Flags := { f with t := b }

/-- F.LT, F.EQ, F.GT <- the comparison of two values. -/
def State.writeCompare (s : State) (a b : Nat) : State := { s with flags := s.flags.compare a b }

/-- F.T <- b. -/
def State.writeT (s : State) (b : Bool) : State := { s with flags := s.flags.setT b }

/-- FLAGS as the host reads it: LT bit 0, EQ bit 1, GT bit 2, T bit 3 (R30). -/
def Flags.toWord (f : Flags) : Word :=
  BitVec.ofNat 32 (f.lt.toNat + 2 * f.eq.toNat + 4 * f.gt.toNat + 8 * f.t.toNat)

end Sys2Proof.Machine
end

