-- ==== Sys2Proof/Machine/Operands.lean ====
section
/-! DEFINITION. The operand forms of a command: register values are `State.x` (R23, R82); the scalar operand is the ARG
captured at acceptance, read unsigned or signed (30_encoding.md rule R85). -/

namespace Sys2Proof.Machine

/-- ARG of R12: the value captured when the command was accepted (R222). A meaning is run only when PENDING is
full; where it is empty the value is the ARG register (log entry 9). -/
def State.capturedArg (s : State) : Word :=
  match s.pending with
  | some p => p.arg
  | none => s.arg

/-- `zext_32(ARG)`: the value, bit index or byte length of LDI, TESTBIT, SETBIT, DIGEST256, DIGEST512 (R85). -/
def State.argNat (s : State) : Nat := s.capturedArg.toNat

/-- `sext_32(ARG)`: the count of SHIFT (R11, R85). -/
def State.argInt (s : State) : Int := s.capturedArg.toInt

end Sys2Proof.Machine
end

