-- ==== Sys2Proof/Machine/Bits.lean ====
section
/-! DEFINITION. Shift, bit and compare commands (43_bits.md): SHIFT, TESTBIT, SETBIT, CMP, ISZ. -/

namespace Sys2Proof.Machine

/-- The number of bits of x * 2^n: the shift of R150 measured before it is made (log entry 11). -/
def shiftedBits (x n : Nat) : Nat := if x = 0 then 0 else bitlen x + n

/-- x * 2^n, 0 at once for a source of value 0 (R150). -/
def shiftLeftValue (x n : Nat) : Nat := if x = 0 then 0 else x * 2 ^ n

/-- x div 2^n, 0 at once when every bit is shifted out (R150). -/
def shiftRightValue (x n : Nat) : Nat := if bitlen x ≤ n then 0 else x / 2 ^ n

/-- R150. The capacity check is the spec's clen(x * 2^n) > MAXW, taken from the bit count so that no value of more
than MAXW words is ever formed (log entry 11). -/
def execShift (d a : RegId) (s : State) : Host.Outcome State Fault Refusal :=
  match s.argInt with
  | .ofNat n =>
    if wordsForBits (shiftedBits (s.x a) n) ≤ s.cfg.maxw then
      succeed (s.writeValue d (shiftLeftValue (s.x a) n))
    else raise .cap s
  | .negSucc n => writeOrCap s d (shiftRightValue (s.x a) (n + 1))

/-- R151: an index at or above 32 * LEN gives 0. -/
def execTestbit (a : RegId) (s : State) : Host.Outcome State Fault Refusal :=
  succeed (s.writeT (if s.argNat < 32 * s.len a then (s.x a).testBit s.argNat else false))

/-- R152: sets one bit within the words of LEN; out of range it completes with no effect. LEN never changes. -/
def execSetbit (d : RegId) (s : State) : Host.Outcome State Fault Refusal :=
  if s.argNat < 32 * s.len d then
    let j := s.argNat / 32
    succeed (s.setReg d ((s.reg d).setWord j (s.word d j ||| BitVec.ofNat 32 (2 ^ (s.argNat % 32)))))
  else succeed s

/-- R153. -/
def execCmp (a b : RegId) (s : State) : Host.Outcome State Fault Refusal :=
  succeed (s.writeCompare (s.x a) (s.x b))

/-- R154. -/
def execIsz (a : RegId) (s : State) : Host.Outcome State Fault Refusal :=
  succeed (s.writeT (decide (s.x a = 0)))

end Sys2Proof.Machine
end

