-- ==== Sys2Proof/Machine/Hash.lean ====
section
/-! DEFINITION. The hash compression engine (44_hash.md): padding, blocks, schedule, rounds, the result, and the commands
DIGEST256 and DIGEST512. One text serves both digests; `DigestParams` holds what differs (R170, R176). -/

namespace Sys2Proof.Machine

/-- What distinguishes the two digests (R170, R176): block size, length field, constants, and the rotation (for the
small sigmas: rotation, rotation, shift) counts of the four functions. -/
structure DigestParams (w : Nat) where
  blockBits : Nat
  lenBits : Nat
  k : List (BitVec w)
  iv : HashState w
  bigSigma0 : Nat × Nat × Nat
  bigSigma1 : Nat × Nat × Nat
  smallSigma0 : Nat × Nat × Nat
  smallSigma1 : Nat × Nat × Nat
  resultLen : Nat

/-- Digest-256 (R170, R176, R180, R181). -/
def digest256Params : DigestParams 32 :=
  { blockBits := 512, lenBits := 64, k := k256, iv := iv256,
    bigSigma0 := (2, 13, 22), bigSigma1 := (6, 11, 25),
    smallSigma0 := (7, 18, 3), smallSigma1 := (17, 19, 10), resultLen := 8 }

/-- Digest-512 (R170, R176, R182, R183). -/
def digest512Params : DigestParams 64 :=
  { blockBits := 1024, lenBits := 128, k := k512, iv := iv512,
    bigSigma0 := (28, 34, 39), bigSigma1 := (14, 18, 41),
    smallSigma0 := (1, 8, 7), smallSigma1 := (19, 61, 6), resultLen := 16 }

/-- ROTR^r(x) of R176. -/
def rotr {w : Nat} (r : Nat) (x : BitVec w) : BitVec w := (x >>> r) ||| (x <<< (w - r))

/-- Σ of R176: three rotations, XORed. -/
def bigSigma {w : Nat} (n : Nat × Nat × Nat) (x : BitVec w) : BitVec w :=
  rotr n.1 x ^^^ rotr n.2.1 x ^^^ rotr n.2.2 x

/-- σ of R176: two rotations and a shift, XORed. -/
def smallSigma {w : Nat} (n : Nat × Nat × Nat) (x : BitVec w) : BitVec w :=
  rotr n.1 x ^^^ rotr n.2.1 x ^^^ (x >>> n.2.2)

/-- Ch(x, y, z) of R176. -/
def ch {w : Nat} (x y z : BitVec w) : BitVec w := (x &&& y) ^^^ (~~~x &&& z)

/-- Maj(x, y, z) of R176. -/
def maj {w : Nat} (x y z : BitVec w) : BitVec w := (x &&& y) ^^^ (x &&& z) ^^^ (y &&& z)

/-- k of R173: the number of zero bits of the padding of an `l`-bit message, the least that fills the last block. -/
def padZeros {w : Nat} (p : DigestParams w) (l : Nat) : Nat :=
  (p.blockBits - (l + 1 + p.lenBits) % p.blockBits) % p.blockBits

/-- The length in bits of the padded message (R173). -/
def paddedBits {w : Nat} (p : DigestParams w) (l : Nat) : Nat := l + 1 + padZeros p l + p.lenBits

/-- P of R173: the padded message as a number, for the `n`-byte message of value `m` (R172). -/
def paddedMessage {w : Nat} (p : DigestParams w) (m n : Nat) : Nat :=
  let k := padZeros p (8 * n)
  m * 2 ^ (1 + k + p.lenBits) + 2 ^ (k + p.lenBits) + 8 * n

/-- N of R174. -/
def blockCount {w : Nat} (p : DigestParams w) (n : Nat) : Nat := paddedBits p (8 * n) / p.blockBits

/-- Block `i` = 1 .. N of R174, most significant block first. -/
def blockAt {w : Nat} (p : DigestParams w) (m n i : Nat) : Nat :=
  paddedMessage p m n / 2 ^ (p.blockBits * (blockCount p n - i)) % 2 ^ p.blockBits

/-- The blocks in the order they are compressed (R174). -/
def blocksOf {w : Nat} (p : DigestParams w) (m n : Nat) : List Nat :=
  (List.range (blockCount p n)).map fun i => blockAt p m n (i + 1)

/-- The next schedule word from the last sixteen, oldest first (R175). -/
def nextWord {w : Nat} (p : DigestParams w) (win : List (BitVec w)) : BitVec w :=
  smallSigma p.smallSigma1 (win.getD 14 0) + win.getD 9 0 + smallSigma p.smallSigma0 (win.getD 1 0) + win.getD 0 0

/-- A window of sixteen schedule words and the `n` words after it (R175). -/
def extendSchedule {w : Nat} (p : DigestParams w) : Nat → List (BitVec w) → List (BitVec w)
  | 0, win => win
  | n + 1, win => win.headD 0 :: extendSchedule p n (win.tail ++ [nextWord p win])

/-- W_0 .. W_(R-1) of a block (R175): its sixteen words, most significant first, then the recurrence. -/
def schedule {w : Nat} (p : DigestParams w) (blk : Nat) : List (BitVec w) :=
  extendSchedule p (p.k.length - 16) (splitWords w 16 blk)

/-- One round of R177 with K_t and W_t. -/
def hashRound {w : Nat} (p : DigestParams w) (v : HashState w) (kw : BitVec w × BitVec w) : HashState w :=
  let t1 := v.h + bigSigma p.bigSigma1 v.e + ch v.e v.f v.g + kw.1 + kw.2
  let t2 := bigSigma p.bigSigma0 v.a + maj v.a v.b v.c
  ⟨t1 + t2, v.a, v.b, v.c, v.d + t1, v.e, v.f, v.g⟩

/-- The state words added pairwise, mod 2^w (R177). -/
def HashState.addWords {w : Nat} (x y : HashState w) : HashState w :=
  ⟨x.a + y.a, x.b + y.b, x.c + y.c, x.d + y.d, x.e + y.e, x.f + y.f, x.g + y.g, x.h + y.h⟩

/-- The compression of one block into the state (R177). -/
def compress {w : Nat} (p : DigestParams w) (st : HashState w) (blk : Nat) : HashState w :=
  st.addWords ((p.k.zip (schedule p blk)).foldl (hashRound p) st)

/-- The final state of the message of value `m` and `n` bytes (R178). -/
def hashMessage {w : Nat} (p : DigestParams w) (m n : Nat) : HashState w :=
  (blocksOf p m n).foldl (compress p) p.iv

/-- The state words H0 .. H7. -/
def HashState.toList {w : Nat} (st : HashState w) : List (BitVec w) :=
  [st.a, st.b, st.c, st.d, st.e, st.f, st.g, st.h]

/-- D of R179: the sum of H_j * 2^(w(7-j)). -/
def digestValue {w : Nat} (st : HashState w) : Nat :=
  st.toList.foldl (fun acc x => acc * 2 ^ w + x.toNat) 0

/-- The body R184 and R185 share: the length bound, then the value bound, then the digest with its fixed LEN. -/
def runDigest {w : Nat} (p : DigestParams w) (d a : RegId) (s : State) : Host.Outcome State Fault Refusal :=
  if s.argNat > 4 * s.cfg.maxw then raise .arg s
  else if s.x a ≥ 2 ^ (8 * s.argNat) then raise .arg s
  else succeed (s.writeFixed d p.resultLen (digestValue (hashMessage p (s.x a) s.argNat)))

/-- R184. -/
def execDigest256 (d a : RegId) (s : State) : Host.Outcome State Fault Refusal :=
  runDigest digest256Params d a s

/-- R185. -/
def execDigest512 (d a : RegId) (s : State) : Host.Outcome State Fault Refusal :=
  runDigest digest512Params d a s

end Sys2Proof.Machine
end

