-- ==== Sys2Proof/Machine/Modular.lean ====
section
/-! DEFINITION. Modular arithmetic and exponentiation (42_modular.md): ADDM, SUBM, MULM, DIVM, EXPM. -/

namespace Sys2Proof.Machine

/-- `a mod m` of R10 for an integer `a` that may be negative: the residue in [0, m), m > 0. -/
def residue (a : Int) (m : Nat) : Nat := (a % (m : Int)).toNat

/-- The square-and-multiply loop of R135 over the lowest `i` bits of the exponent, most significant first. -/
def expLoop (g e m : Nat) : Nat → Nat → Nat
  | 0, acc => acc
  | i + 1, acc =>
    let sq := acc * acc % m
    expLoop g e m i (if e.testBit i then sq * g % m else sq)

/-- g^e mod m as R135 computes it: the accumulator starts at 1, not reduced. -/
def expMod (g e m : Nat) : Nat := expLoop g e m (bitlen e) 1

/-- R130, R131. -/
def execAddm (d a b c : RegId) (s : State) : Host.Outcome State Fault Refusal :=
  if s.x c = 0 then raise .divzero s
  else succeed (s.writeValue d ((s.x a + s.x b) % s.x c))

/-- R130, R132. -/
def execSubm (d a b c : RegId) (s : State) : Host.Outcome State Fault Refusal :=
  if s.x c = 0 then raise .divzero s
  else succeed (s.writeValue d (residue ((s.x a : Int) - (s.x b : Int)) (s.x c)))

/-- R130, R133. -/
def execMulm (d a b c : RegId) (s : State) : Host.Outcome State Fault Refusal :=
  if s.x c = 0 then raise .divzero s
  else succeed (s.writeValue d (s.x a * s.x b % s.x c))

/-- R130, R134: the modulus is checked before the divisor. -/
def execDivm (d a b c : RegId) (s : State) : Host.Outcome State Fault Refusal :=
  if s.x c = 0 then raise .divzero s
  else if s.x b = 0 then raise .divzero s
  else succeed (s.writeValue d ((restoringDivide (s.x a) (s.x b)).1 % s.x c))

/-- R130, R135. -/
def execExpm (d a b c : RegId) (s : State) : Host.Outcome State Fault Refusal :=
  if s.x c = 0 then raise .divzero s
  else succeed (s.writeValue d (expMod (s.x a) (s.x b) (s.x c)))

end Sys2Proof.Machine
end

