-- ==== Sys2Proof/Machine/Move.lean ====
section
/-! DEFINITION. Register transfer (40_move.md): MOV, LDI. -/

namespace Sys2Proof.Machine

/-- R100: LEN and every word are copied as they stand. -/
def execMov (d a : RegId) (s : State) : Host.Outcome State Fault Refusal :=
  succeed (s.setReg d (s.reg a))

/-- R101. -/
def execLdi (d : RegId) (s : State) : Host.Outcome State Fault Refusal :=
  succeed (s.writeValue d s.argNat)

end Sys2Proof.Machine
end

