-- ==== Sys2Proof/Machine/NumTheory.lean ====
section
/-! DEFINITION. Number-theory commands (45_numtheory.md): GCD, EEA, MINV, ISPRIME. Each loop of the spec runs on fuel that
its argument bounds: the second argument of Euclid falls at every turn, and so does d when halved. -/

namespace Sys2Proof.Machine

/-- The loop of R200: `while q != 0: (p, q) <- (q, p mod q)`. -/
def gcdLoop : Nat → Nat → Nat → Nat
  | 0, p, _ => p
  | fuel + 1, p, q => if q = 0 then p else gcdLoop fuel q (p % q)

/-- The gcd of R200; q + 1 turns are enough, since q falls at every turn. -/
def euclid (p q : Nat) : Nat := gcdLoop (q + 1) p q

/-- What EEA returns: the gcd and the two coefficients (R201). -/
structure Bezout where
  g : Nat
  s : Nat
  t : Nat
  deriving DecidableEq, Repr

/-- The loop of R201, coefficients reduced mod `m` at every step. -/
def eeaLoop (m : Nat) : Nat → Nat → Nat → Nat → Nat → Nat → Nat → Bezout
  | 0, r0, _, s0, _, t0, _ => ⟨r0, s0, t0⟩
  | fuel + 1, r0, r1, s0, s1, t0, t1 =>
    if r1 = 0 then ⟨r0, s0, t0⟩
    else
      let q := r0 / r1
      eeaLoop m fuel r1 (r0 - q * r1) s1 (residue ((s0 : Int) - q * s1) m) t1
        (residue ((t0 : Int) - q * t1) m)

/-- (g, s, t) of R201 for M = m > 0; a = 0 or b = 0 gives the degenerate result. -/
def eea (a b m : Nat) : Bezout :=
  if a = 0 ∨ b = 0 then ⟨0, 0, 0⟩
  else eeaLoop m (b + 1) a b (1 % m) 0 0 (1 % m)

/-- `while d is even: d <- d div 2; s <- s + 1` (R203): the odd part and the number of halvings. -/
def halve : Nat → Nat → Nat → Nat × Nat
  | 0, d, k => (d, k)
  | fuel + 1, d, k => if d % 2 = 0 then halve fuel (d / 2) (k + 1) else (d, k)

/-- `repeat n times: y <- y * y mod n; if y = n - 1: passed` (R203). -/
def squareLoop (n : Nat) : Nat → Nat → Bool
  | 0, _ => false
  | k + 1, y => if y * y % n = n - 1 then true else squareLoop n k (y * y % n)

/-- One witness of R203: skipped, hence passed, unless it is below n - 1. -/
def witnessPasses (n d k wt : Nat) : Bool :=
  if wt < n - 1 then
    let y := expMod wt d n
    if y = 1 ∨ y = n - 1 then true else squareLoop n (k - 1) y
  else true

/-- The 14 witnesses of R204. -/
def witnesses (m : MrTail) : List Nat :=
  [2, 3, 5, 7, 11, 13, 17, 19, 23, 29, 31, m.t0, m.t1, m.t2]

/-- Miller-Rabin as R203 runs it. -/
def isProbablePrime (m : MrTail) (n : Nat) : Bool :=
  if n < 3 then false
  else if n = 3 then true
  else
    let dk := halve (n - 1) (n - 1) 0
    (witnesses m).all (witnessPasses n dk.1 dk.2)

/-- R200. -/
def execGcd (d a b : RegId) (s : State) : Host.Outcome State Fault Refusal :=
  succeed (s.writeValue d (euclid (s.x a) (s.x b)))

/-- R201. The check M = 0 comes before the degenerate case. Equal destinations are illegal (R89) and never pass the
decoder; this arm gives them the E_ILLEGAL completion all the same (log entry 10). -/
def execEea (d e f a b c : RegId) (s : State) : Host.Outcome State Fault Refusal :=
  if d = e ∨ d = f ∨ e = f then raise .illegal s
  else if s.x c = 0 then raise .divzero s
  else
    let r := eea (s.x a) (s.x b) (s.x c)
    succeed (((s.writeValue d r.g).writeValue e r.s).writeValue f r.t)

/-- R202: t is written whether or not x has an inverse; T says whether it has. -/
def execMinv (d a c : RegId) (s : State) : Host.Outcome State Fault Refusal :=
  if s.x c = 0 then raise .divzero s
  else
    let r := eea (s.x c) (s.x a) (s.x c)
    succeed ((s.writeValue d r.t).writeT (decide (r.g = 1)))

/-- R203. -/
def execIsprime (a : RegId) (s : State) : Host.Outcome State Fault Refusal :=
  succeed (s.writeT (isProbablePrime s.cfg.mrTail (s.x a)))

end Sys2Proof.Machine
end

