-- ==== Sys2Proof/Machine/Dispatch.lean ====
section
/-! DEFINITION. The dispatch of a decoded command to its meaning (60_exceptions.md rule R224). -/

namespace Sys2Proof.Machine

def exec (i : Instr) (s : State) : Host.Outcome State Fault Refusal :=
  match i with
  -- 40_move.md
  | .mov d a => Sys2Proof.Machine.execMov d a s
  | .ldi d => Sys2Proof.Machine.execLdi d s
  -- 41_arith.md
  | .add d a b => Sys2Proof.Machine.execAdd d a b s
  | .sub d a b => Sys2Proof.Machine.execSub d a b s
  | .mul d a b => Sys2Proof.Machine.execMul d a b s
  | .divq d a b => Sys2Proof.Machine.execDivq d a b s
  | .mod d a b => Sys2Proof.Machine.execMod d a b s
  | .divrem d e a b => Sys2Proof.Machine.execDivrem d e a b s
  -- 42_modular.md
  | .addm d a b c => Sys2Proof.Machine.execAddm d a b c s
  | .subm d a b c => Sys2Proof.Machine.execSubm d a b c s
  | .mulm d a b c => Sys2Proof.Machine.execMulm d a b c s
  | .divm d a b c => Sys2Proof.Machine.execDivm d a b c s
  | .expm d a b c => Sys2Proof.Machine.execExpm d a b c s
  -- 43_bits.md
  | .shift d a => Sys2Proof.Machine.execShift d a s
  | .testbit a => Sys2Proof.Machine.execTestbit a s
  | .setbit d => Sys2Proof.Machine.execSetbit d s
  | .cmp a b => Sys2Proof.Machine.execCmp a b s
  | .isz a => Sys2Proof.Machine.execIsz a s
  -- 44_hash.md
  | .digest256 d a => Sys2Proof.Machine.execDigest256 d a s
  | .digest512 d a => Sys2Proof.Machine.execDigest512 d a s
  -- 45_numtheory.md
  | .gcd d a b => Sys2Proof.Machine.execGcd d a b s
  | .eea d e f a b c => Sys2Proof.Machine.execEea d e f a b c s
  | .minv d a c => Sys2Proof.Machine.execMinv d a c s
  | .isprime a => Sys2Proof.Machine.execIsprime a s

end Sys2Proof.Machine
end

