-- ==== Sys2Proof/Machine/Engine.lean ====
section
/-! DEFINITION. The engine's completion step (60_exceptions.md rule R224). -/

namespace Sys2Proof.Machine

/-- What a command word does at completion: E_ILLEGAL when it does not decode (R88, R226), else its command's rule. -/
def runWord (cw : Word) (s : State) : Host.Outcome State Fault Refusal :=
  match decode cw with
  | .ok i => exec i s
  | .error _ => raise .illegal s

/-- The engine's turn: with PENDING full, the completion step; with PENDING empty it is not enabled and nothing changes. -/
def engineTurn (s : State) : Host.Outcome State Fault Refusal :=
  match s.pending with
  | some p => runWord p.word s
  | none => .next s

end Sys2Proof.Machine
end

