-- ==== Sys2Proof/Machine/Window.lean ====
section
/-! DEFINITION. The register window (20_memory.md): admitted accesses (R51), the map (R53), reads and writes of each
entry (R54 to R58, 10_state.md rules R32 to R38, 60_exceptions.md rules R222, R223, R235), and hard reset (R250). -/

namespace Sys2Proof.Machine

/-- The size of the window in bytes (R50). -/
def windowSize : Nat := 0x20000

/-- R50, R51: a single 32-bit access whose offset is a multiple of 4 and lies in the window. -/
def admitted (c : Config) (a : Access) : Bool :=
  a.mode == .single && a.width == 4 && decide (c.base ≤ a.addr) &&
    decide (a.addr < c.base + windowSize) && (a.addr - c.base) % 4 == 0

/-- An entry of the register map (R53). -/
inductive WinReg where
  | caps
  | ctrl
  | status
  | flags
  | arg
  | cmd
  | reglen (r : RegId)
  | regword (r : RegId) (j : Nat)
  | reserved
  deriving DecidableEq, Repr

/-- The entry at an offset that is a multiple of 4 below the window's size (R53). -/
def winReg (off : Nat) : WinReg :=
  if off = 0x000 then .caps
  else if off = 0x004 then .ctrl
  else if off = 0x008 then .status
  else if off = 0x00C then .flags
  else if off = 0x010 then .arg
  else if off = 0x014 then .cmd
  else if 0x100 ≤ off ∧ off < 0x140 then .reglen (Fin.ofNat 16 ((off - 0x100) / 4))
  else if 0x10000 ≤ off then .regword (Fin.ofNat 16 ((off - 0x10000) / 0x1000)) (off % 0x1000 / 4)
  else .reserved

/-- CAPS: NREG in bits 7:0, MAXW in bits 31:16 (R32). -/
def capsWord (c : Config) : Word := BitVec.ofNat 32 (16 + 2 ^ 16 * c.maxw)

/-- CTRL: IE in bit 0; SRST reads 0 (R33). -/
def ctrlWord (s : State) : Word := BitVec.ofNat 32 s.ie.toNat

/-- STATUS: BUSY 0, DONE 1, ERR 2, HERR 3, ERRCODE 15:8 (R34). -/
def statusWord (s : State) : Word :=
  BitVec.ofNat 32
    (s.busy.toNat + 2 * s.done.toNat + 4 * s.err.toNat + 8 * s.herr.toNat + 2 ^ 8 * s.errcode.code)

/-- What a read of an entry gives when R58 makes no draw of it. A reserved offset gives 0 (R54), and so does
REGWORD[r][j] with j ≥ MAXW (R57). REGLEN gives len[r] in bits 10:0 (R37). -/
def winRead (s : State) : WinReg → Word
  | .caps => capsWord s.cfg
  | .ctrl => ctrlWord s
  | .status => statusWord s
  | .flags => s.flags.toWord
  | .arg => s.arg
  | .cmd => s.cmd
  | .reglen r => BitVec.ofNat 32 (s.len r % 2 ^ 11)
  | .regword r j => if j < s.cfg.maxw then s.word r j else 0
  | .reserved => 0

/-- The entries whose reads are draws while BUSY = 1 (R58; for every j, log entry 7). -/
def drawnWhileBusy : WinReg → Bool
  | .flags => true
  | .reglen _ => true
  | .regword _ _ => true
  | .caps => false
  | .ctrl => false
  | .status => false
  | .arg => false
  | .cmd => false
  | .reserved => false

/-- A host read: its data on the bus, nothing else changed (R59); a fresh draw where R58 says so. -/
def hostRead (s : State) (w : WinReg) : State :=
  if s.busy && drawnWhileBusy w then
    { s with readData := some (Config.freeWord s.draws), draws := s.draws + 1 }
  else { s with readData := some (winRead s w) }

/-- A CTRL write: bit 1 performs a soft reset and ignores bit 0 (R33, R234); else IE takes bit 0. -/
def writeCtrl (s : State) (v : Word) : State :=
  if v.getLsbD 1 then s.resetDevice else { s with ie := v.getLsbD 0 }

/-- A STATUS write clears DONE by bit 1 and HERR by bit 3 (R235). -/
def writeStatus (s : State) (v : Word) : State :=
  { s with done := s.done && !v.getLsbD 1, herr := s.herr && !v.getLsbD 3 }

/-- The LEN field of REGLEN data, bits 10:0 (R37). Bits 31:11 are reserved and a write to them is ignored (section 4 of
10_state.md, item I12 of 93_implementation_defined.md; log entry 8). -/
def reglenField (v : Word) : Nat := v.toNat % 2 ^ 11

/-- A REGLEN write while BUSY = 0 (R55). -/
def writeReglen (s : State) (r : RegId) (v : Word) : State :=
  if reglenField v ≤ s.cfg.maxw then s.setReg r ((s.reg r).setLen (reglenField v)) else s.setHerr

/-- A REGWORD write while BUSY = 0 (R56, R57). -/
def writeRegword (s : State) (r : RegId) (j : Nat) (v : Word) : State :=
  if j < s.cfg.maxw ∧ j < s.len r then s.setReg r ((s.reg r).setWord j v) else s.setHerr

/-- A host write. While BUSY = 1 a write to ARG, CMD, REGLEN or REGWORD is dropped and sets HERR (R58, R223). A write to
CAPS, FLAGS or a reserved offset is ignored and sets HERR (R54). -/
def hostWrite (s : State) (w : WinReg) (v : Word) : State :=
  match w with
  | .caps => s.setHerr
  | .ctrl => writeCtrl s v
  | .status => writeStatus s v
  | .flags => s.setHerr
  | .arg => if s.busy then s.setHerr else { s with arg := v }
  | .cmd => if s.busy then s.setHerr else s.accept v
  | .reglen r => if s.busy then s.setHerr else writeReglen s r v
  | .regword r j => if s.busy then s.setHerr else writeRegword s r j v
  | .reserved => s.setHerr

/-- One host access (R51): refused unless admitted. -/
def hostAccess (a : Access) (s : State) : Host.Outcome State Fault Refusal :=
  if admitted s.cfg a then
    let w := winReg (a.addr - s.cfg.base)
    match a.kind with
    | .read => .next (hostRead s w)
    | .write v => .next (hostWrite s w v)
  else .refused .accessNotAdmitted

/-- The RST input (R250, R251). -/
def hardReset (s : State) : Host.Outcome State Fault Refusal := .next s.resetDevice

end Sys2Proof.Machine
end

