-- ==== Sys2Proof/Machine/HostProgram.lean ====
section
/-! DEFINITION. Host programs as sequences of events: the host pseudo-instructions of 30_encoding.md rule R92 and the
operand load of 70_reset_and_hazards.md rule R257. They are what a host puts in `State.inputs`; the machine never
calls them. -/

namespace Sys2Proof.Machine

/-- `MemRead(off, 4)` (R12). -/
def memRead (c : Config) (off : Nat) : Event := .access ⟨c.base + off, 4, .single, .read⟩

/-- `MemWrite(off, 4, v)` (R12). -/
def memWrite (c : Config) (off : Nat) (v : Word) : Event := .access ⟨c.base + off, 4, .single, .write v⟩

/-- `WAIT` (R92): `polls` reads of STATUS while BUSY = 1, the completion, and the read that finds BUSY = 0. Over all
`polls`, these are all the places in which the completion can fall (item I8; log entry 17). -/
def waitEvents (c : Config) (polls : Nat) : List Event :=
  List.replicate polls (memRead c 0x008) ++ [.engine, memRead c 0x008]

/-- `MemWrite(0x014, 4, encoding of cmd)` and `WAIT` (R92). -/
def commandEvents (c : Config) (polls : Nat) (i : Instr) : List Event :=
  memWrite c 0x014 (encode i) :: waitEvents c polls

/-- `MemWrite(0x010, 4, v)`, then a command that reads ARG, then `WAIT` (R92). -/
def argCommandEvents (c : Config) (polls : Nat) (v : Word) (i : Instr) : List Event :=
  memWrite c 0x010 v :: commandEvents c polls i

/-- The pseudo-instructions of R92, but `WAIT`, which is `waitEvents`. -/
inductive Pseudo where
  | li (d : RegId) (imm : Word)
  | shl (d a : RegId) (n : Nat)
  | shr (d a : RegId) (n : Nat)
  | btst (a : RegId) (i : Word)
  | bset (d : RegId) (i : Word)
  | sha256 (d a : RegId) (n : Word)
  | sha512 (d a : RegId) (n : Word)
  | clr (d : RegId)
  | wipe (d : RegId)
  | inv (d x m : RegId)
  | c (cmd : Instr)
  deriving DecidableEq, Repr

/-- The counts R92 allows: SHL 1 .. 2^31-1, SHR 1 .. 2^31. -/
def Pseudo.wellFormed : Pseudo → Bool
  | .shl _ _ n => decide (1 ≤ n ∧ n ≤ 2 ^ 31 - 1)
  | .shr _ _ n => decide (1 ≤ n ∧ n ≤ 2 ^ 31)
  | .c cmd => cmd.wellFormed
  | .li _ _ => true
  | .btst _ _ => true
  | .bset _ _ => true
  | .sha256 _ _ _ => true
  | .sha512 _ _ _ => true
  | .clr _ => true
  | .wipe _ => true
  | .inv _ _ _ => true

/-- The expansion of a pseudo-instruction (R92); `polls` is that of its `WAIT`, and WIPE has none. -/
def Pseudo.expand (c : Config) (polls : Nat) : Pseudo → List Event
  | .li d imm => argCommandEvents c polls imm (.ldi d)
  | .shl d a n => argCommandEvents c polls (BitVec.ofNat 32 n) (.shift d a)
  | .shr d a n => argCommandEvents c polls (BitVec.ofNat 32 ((2 ^ 32 - n) % 2 ^ 32)) (.shift d a)
  | .btst a i => argCommandEvents c polls i (.testbit a)
  | .bset d i => argCommandEvents c polls i (.setbit d)
  | .sha256 d a n => argCommandEvents c polls n (.digest256 d a)
  | .sha512 d a n => argCommandEvents c polls n (.digest512 d a)
  | .clr d => argCommandEvents c polls 0 (.ldi d)
  | .wipe d => [memWrite c (0x100 + 4 * d.val) 0]
  | .inv d x m => commandEvents c polls (.minv d x m)
  | .c cmd => commandEvents c polls cmd

/-- The REGWORD writes of R257 for words `ws` of register `r`, from word `j` up. R257 allows any order of them: ascending is the
model's choice of one (log entry 27). -/
def loadWords (c : Config) (r : RegId) : List Word → Nat → List Event
  | [], _ => []
  | w :: ws, j => memWrite c (0x10000 + 0x1000 * r.val + 4 * j) w :: loadWords c r ws (j + 1)

/-- The operand load of R257: REGLEN first, then the clen(v) words of `v`, ascending (log entry 27). -/
def loadValue (c : Config) (r : RegId) (v : Nat) : List Event :=
  memWrite c (0x100 + 4 * r.val) (BitVec.ofNat 32 (clen v)) :: loadWords c r (toWords (clen v) v) 0

end Sys2Proof.Machine
end

