-- ==== Sys2Proof/Machine/Step.lean ====
section
/-! DEFINITION. One step of the machine (00_scope.md rule R6, 20_memory.md rule R63): the oldest entry of `inputs` takes
full effect; with none left, the engine moves. -/

namespace Sys2Proof.Machine

/-- One event. -/
def takeEvent (e : Event) (s : State) : Host.Outcome State Fault Refusal :=
  match e with
  | .access a => hostAccess a s
  | .engine => engineTurn s
  | .hardReset => hardReset s

/-- One step. With no input left an accepted command completes (the fairness of R262, log entry 4), and an idle
machine stays as it is. -/
def step (s : State) : Host.Outcome State Fault Refusal :=
  match s.inputs with
  | [] => engineTurn s
  | e :: rest => takeEvent e (s.withInputs rest)

/-- The instruction of a table row placed where the engine takes its next command: accepted as a CMD write accepts it
(R222), the engine's turn next (log entry 14). -/
def State.withFetchWord (s : State) (nbits w : Nat) : State :=
  (s.accept (tableWord nbits w)).withInputs (.engine :: s.inputs)

end Sys2Proof.Machine
end

