-- ==== Sys2Proof/Safety.lean ====
section
/-! DEFINITION. What claims are stated in: the invariant of the state, which inputs a safe run has, and what a command
leaves changed and unchanged. -/

namespace Sys2Proof.Machine

/-- R21, R22: LEN is at most MAXW, the storage has MAXW words, and every word at or above LEN is 0. -/
abbrev Reg.wf (maxw : Nat) (r : Reg) : Prop :=
  r.len ≤ maxw ∧ r.w.length = maxw ∧ ∀ j, j < maxw → r.len ≤ j → r.word j = 0

/-- Every operand register meets R21 and R22. -/
abbrev State.regsWf (s : State) : Prop := ∀ i : RegId, (s.reg i).wf s.cfg.maxw

/-- R39, R65, R222, R230: a full PENDING slot holds the CMD read-back and ARG as they stand, and while it is full DONE
is 0 and ERRCODE is 0. -/
abbrev State.pendingWf (s : State) : Prop :=
  s.pending = none ∨ (s.pending = some ⟨s.cmd, s.arg⟩ ∧ s.done = false ∧ s.errcode = .ok)

/-- The invariant of PWCE's state: legal parameters (R7, R204), R21 and R22 of every register, and `pendingWf`. -/
abbrev State.Inv (s : State) : Prop := s.cfg.legal ∧ s.regsWf ∧ s.pendingWf

/-- R24: LEN is the canonical word count of the value. -/
abbrev Reg.canonical (r : Reg) : Prop := r.len = clen r.value

/-- The event is one the model gives a step: no access that R51 refuses. -/
def Event.allowed (c : Config) : Event → Bool
  | .access a => admitted c a
  | .engine => true
  | .hardReset => true

/-- A safe input order: no access in it is refused. -/
def State.inputsAllowed (s : State) : Prop := ∀ e ∈ s.inputs, e.allowed s.cfg = true

/-- Every register outside `ds` is unchanged, LEN and words (the frame of a command's registers). -/
def RegsKept (ds : List RegId) (s t : State) : Prop := ∀ r : RegId, r ∉ ds → t.reg r = s.reg r

/-- What every completion does to the state outside the operand registers and FLAGS (R224): BUSY = 0, DONE = 1,
ERRCODE = `code`, and all else kept. -/
def Completed (code : ErrCode) (s t : State) : Prop :=
  t.pending = none ∧ t.done = true ∧ t.errcode = code ∧
    t.cfg = s.cfg ∧ t.ie = s.ie ∧ t.herr = s.herr ∧ t.arg = s.arg ∧ t.cmd = s.cmd ∧
    t.inputs = s.inputs ∧ t.readData = s.readData ∧ t.draws = s.draws

/-- The canonical write of R25 has been made: LEN, the value, and each of the MAXW words. -/
def Holds (t : State) (r : RegId) (v : Nat) : Prop :=
  t.len r = clen v ∧ t.x r = v ∧ ∀ j, j < t.cfg.maxw → t.word r j = BitVec.ofNat 32 (v / 2 ^ (32 * j))

/-- A successful command with the one destination `d`, which now holds `v`; nothing else is written. -/
def WroteOne (s t : State) (d : RegId) (v : Nat) : Prop :=
  Holds t d v ∧ RegsKept [d] s t ∧ t.flags = s.flags ∧ Completed .ok s t

/-- A successful command that writes FLAGS only. -/
def WroteFlags (s t : State) (f : Flags) : Prop :=
  t.flags = f ∧ t.regs = s.regs ∧ Completed .ok s t

/-- The state after an error completion (R225): the state before, but for BUSY, DONE and ERRCODE. -/
def errorState (code : ErrCode) (s : State) : State :=
  { s with pending := none, done := true, errcode := code }

/-- It is the engine's move in `s`, and `u` is `s` with that turn taken from the input order (R6, R224): a turn of its own,
or no input left. -/
def EngineMoves (s u : State) : Prop :=
  (s.inputs = [] ∧ u = s) ∨ ∃ rest, s.inputs = .engine :: rest ∧ u = { s with inputs := rest }

/-- The error codes besides E_ILLEGAL that a command can end with (R220). -/
def errorCodes : Instr → List ErrCode
  | .mov _ _ => []
  | .ldi _ => []
  | .add _ _ _ => [.cap]
  | .sub _ _ _ => [.under]
  | .mul _ _ _ => [.cap]
  | .divq _ _ _ => [.divzero]
  | .mod _ _ _ => [.divzero]
  | .divrem _ _ _ _ => [.divzero]
  | .addm _ _ _ _ => [.divzero]
  | .subm _ _ _ _ => [.divzero]
  | .mulm _ _ _ _ => [.divzero]
  | .divm _ _ _ _ => [.divzero]
  | .expm _ _ _ _ => [.divzero]
  | .shift _ _ => [.cap]
  | .testbit _ => []
  | .setbit _ => []
  | .cmp _ _ => []
  | .isz _ => []
  | .digest256 _ _ => [.arg]
  | .digest512 _ _ => [.arg]
  | .gcd _ _ _ => []
  | .eea _ _ _ _ _ _ => [.divzero]
  | .minv _ _ _ => [.divzero]
  | .isprime _ => []

/-- What a witness of Miller-Rabin tests (R203), in closed form: with n - 1 = 2^k * d and d odd, wt^d is 1 or n - 1 mod n,
or one of its next k - 1 squares is n - 1. -/
def StrongProbablePrime (n wt : Nat) : Prop :=
  ∀ k d, d % 2 = 1 → n - 1 = 2 ^ k * d →
    wt ^ d % n = 1 ∨ wt ^ d % n = n - 1 ∨ ∃ r, 1 ≤ r ∧ r < k ∧ wt ^ (2 ^ r * d) % n = n - 1

/-- The first w bits of the fractional part of the n-th root of q (R180 to R183): the root times 2^w, rounded down, mod 2^w. -/
def FractionalRoot {w : Nat} (n q : Nat) (k : BitVec w) : Prop :=
  ∃ r, r ^ n ≤ q * 2 ^ (n * w) ∧ q * 2 ^ (n * w) < (r + 1) ^ n ∧ k = BitVec.ofNat w r

end Sys2Proof.Machine
end

