-- ==== Sys2Proof/Certificates/Slice0/Obligations.lean ====
section
/-! DEFINITION. The statements for the provers. Each says what a numbered rule of the spec says; `t` is always the state
after, `s` the state before. -/

open Sys2Proof Sys2Proof.Machine

/-! ### Command words -/

/-- R90 and its encoding side: no field of a legal command is lost or moved by encoding and decoding. -/
def Obligations.DecodeInvertsEncode : Prop :=
  ∀ i : Instr, i.wellFormed = true → decode (encode i) = .ok i

/-- Every word that decodes is the word of the command it decodes to: no two words mean one command. -/
def Obligations.EncodeInvertsDecode : Prop :=
  ∀ (cw : Word) (i : Instr), decode cw = .ok i → i.wellFormed = true ∧ encode i = cw

/-- R90: at most one row of the opcode map matches a word; a matching row decides the command, up to the check of
equal destinations; a word that matches no row is illegal, and the reason follows the order of R90. -/
def Obligations.DecoderFollowsOpcodeMap : Prop :=
  ∀ cw : Word,
    (∀ r₁ ∈ opcodeMap, ∀ r₂ ∈ opcodeMap,
      cw &&& r₁.mask = r₁.pattern → cw &&& r₂.mask = r₂.pattern → r₁.mnemonic = r₂.mnemonic) ∧
    (∀ row ∈ opcodeMap, cw &&& row.mask = row.pattern →
      decode cw = if (row.build (fieldsOf cw)).wellFormed then .ok (row.build (fieldsOf cw))
        else .error .equalDestinations) ∧
    ((∀ row ∈ opcodeMap, cw.extractLsb' 0 8 ≠ row.opc) → decode cw = .error .reservedOpcode) ∧
    (∀ row ∈ opcodeMap, cw.extractLsb' 0 8 = row.opc → cw &&& row.mask ≠ row.pattern →
      decode cw = .error .unusedField)

/-- R91 and R100 to R203: example words of every opcode group decode to the commands the spec writes beside them. -/
def Obligations.ExampleWordsDecode : Prop :=
  decode 0x00010201 = .ok (.mov 2 1) ∧ decode 0x00320110 = .ok (.add 1 2 3) ∧
    decode 0x00325415 = .ok (.divrem 4 5 2 3) ∧ decode 0x03210424 = .ok (.expm 4 1 2 3) ∧
    decode 0x00020130 = .ok (.shift 1 2) ∧ decode 0x00010241 = .ok (.digest512 2 1) ∧
    decode 0x73216551 = .ok (.eea 5 6 7 1 2 3) ∧ decode 0x03010452 = .ok (.minv 4 1 3)

/-! ### Steps of the engine -/

/-- R224: at the engine's move a pending word that decodes is run by the meaning of its command. -/
def Obligations.StepRunsDecodedCommand : Prop :=
  ∀ (s u : State) (p : Pending) (i : Instr),
    s.pending = some p → EngineMoves s u → decode p.word = .ok i → step s = exec i u

/-- R84, R88, R89, R225: a reserved OPC, a non-zero unused field or equal destinations complete with E_ILLEGAL and change no
register and no flag. When the engine moves is the model's choice (log entries 3, 4). -/
def Obligations.IllegalWordsWriteNothing : Prop :=
  ∀ (s u : State) (p : Pending), s.pending = some p → EngineMoves s u →
    ((∀ row ∈ opcodeMap, p.word.extractLsb' 0 8 ≠ row.opc) ∨
      (∃ row ∈ opcodeMap, p.word.extractLsb' 0 8 = row.opc ∧ p.word &&& row.mask ≠ row.pattern) ∨
      (p.word.extractLsb' 0 8 = 0x15#8 ∧ p.word.extractLsb' 8 4 = p.word.extractLsb' 12 4) ∨
      (p.word.extractLsb' 0 8 = 0x51#8 ∧
        (p.word.extractLsb' 8 4 = p.word.extractLsb' 12 4 ∨ p.word.extractLsb' 8 4 = p.word.extractLsb' 28 4 ∨
          p.word.extractLsb' 12 4 = p.word.extractLsb' 28 4))) →
    step s = .next (errorState .illegal u)

/-- R224: every command, legal or not, completes: BUSY = 0, DONE = 1, an error code, and the host's registers kept. -/
def Obligations.EveryCommandCompletes : Prop :=
  ∀ (i : Instr) (s : State), ∃ t, exec i s = .next t ∧ Completed t.errcode s t

/-- R225: a command that ends with a non-zero code changes nothing but BUSY, DONE and ERRCODE. -/
def Obligations.ErrorsArePrecise : Prop :=
  ∀ (i : Instr) (s t : State), exec i s = .next t → t.errcode ≠ .ok → t = errorState t.errcode s

/-- The frame of the register file: a command writes no register but its destinations (R83). -/
def Obligations.OnlyDestinationsWritten : Prop :=
  ∀ (i : Instr) (s t : State), exec i s = .next t → RegsKept i.dests s t

/-- R31: CMP writes LT, EQ, GT, exactly one of them 1; TESTBIT, ISZ, ISPRIME and MINV write T alone; every other command
leaves FLAGS, and so does every command that ends in an error. What is written, and all else the command does, is the same
whatever FLAGS held before: no command reads FLAGS. -/
def Obligations.FlagWriters : Prop :=
  ∀ (i : Instr) (s t : State) (f : Flags), exec i s = .next t →
    ∃ u, exec i { s with flags := f } = .next u ∧ u = { t with flags := u.flags } ∧
      (t.errcode ≠ .ok → t.flags = s.flags) ∧
      (match i with
        | .cmp _ _ => t.flags.t = s.flags.t ∧ t.flags.lt.toNat + t.flags.eq.toNat + t.flags.gt.toNat = 1 ∧
            u.flags = { t.flags with t := f.t }
        | .testbit _ => t.flags = { s.flags with t := t.flags.t } ∧ u.flags = { f with t := t.flags.t }
        | .isz _ => t.flags = { s.flags with t := t.flags.t } ∧ u.flags = { f with t := t.flags.t }
        | .isprime _ => t.flags = { s.flags with t := t.flags.t } ∧ u.flags = { f with t := t.flags.t }
        | .minv _ _ _ => t.flags = { s.flags with t := t.flags.t } ∧
            (t.errcode = .ok → u.flags = { f with t := t.flags.t })
        | _ => t.flags = s.flags ∧ u.flags = f)

/-- R220: after decode, a command ends with OK or with a code the table gives it. -/
def Obligations.ErrorCodesOfEachCommand : Prop :=
  ∀ (i : Instr) (s t : State), i.wellFormed = true → exec i s = .next t → t.errcode = .ok ∨ t.errcode ∈ errorCodes i

/-- R24: a successful command leaves each register it writes canonical, except MOV, SETBIT and the digests. -/
def Obligations.ResultsAreCanonical : Prop :=
  ∀ (i : Instr) (s t : State), s.cfg.legal → s.regsWf → exec i s = .next t → t.errcode = .ok →
    match i with
    | .mov d a => t.len d = s.len a
    | .setbit d => t.len d = s.len d
    | .digest256 d _ => t.len d = 8
    | .digest512 d _ => t.len d = 16
    | _ => ∀ d ∈ i.dests, (t.reg d).canonical

/-- R23: an arithmetic, modular, compare, number-theory, hash, shift or test command sees its sources by value alone. From
two states that differ in the LEN of sources of equal value, the code, the flags and the results are the same. -/
def Obligations.SourcesAreReadByValue : Prop :=
  ∀ (i : Instr) (s₁ s₂ t₁ t₂ : State),
    (match i with | .mov _ _ => False | .setbit _ => False | _ => True) →
    s₁.regsWf → s₂.regsWf → s₁.cfg = s₂.cfg → s₁.pending = s₂.pending → s₁.arg = s₂.arg → s₁.flags = s₂.flags →
    (∀ r ∈ i.sources, s₁.x r = s₂.x r) → exec i s₁ = .next t₁ → exec i s₂ = .next t₂ →
    t₁.errcode = t₂.errcode ∧ t₁.flags = t₂.flags ∧ (t₁.errcode = .ok → ∀ d ∈ i.dests, t₁.reg d = t₂.reg d)

/-! ### Register transfer and base arithmetic -/

/-- R100: the copy has the source's LEN and words, canonical or not. -/
def Obligations.MovCopiesExactly : Prop :=
  ∀ (s : State) (d a : RegId), ∃ t, exec (.mov d a) s = .next t ∧
    t.len d = s.len a ∧ (∀ j, t.word d j = s.word a j) ∧ t.x d = s.x a ∧
    RegsKept [d] s t ∧ t.flags = s.flags ∧ Completed .ok s t

/-- R101: the captured ARG, unsigned, as a canonical value with LEN 1. -/
def Obligations.LdiLoadsArg : Prop :=
  ∀ (s : State) (p : Pending) (d : RegId), s.pending = some p → 16 ≤ s.cfg.maxw →
    ∃ t, exec (.ldi d) s = .next t ∧ WroteOne s t d p.arg.toNat ∧ t.len d = 1

/-- R110: the exact sum, or E_CAP. -/
def Obligations.AddIsExact : Prop :=
  ∀ (s : State) (d a b : RegId),
    (clen (s.x a + s.x b) ≤ s.cfg.maxw → ∃ t, exec (.add d a b) s = .next t ∧ WroteOne s t d (s.x a + s.x b)) ∧
    (s.cfg.maxw < clen (s.x a + s.x b) → exec (.add d a b) s = .next (errorState .cap s))

/-- R111: the exact difference, or E_UNDER. -/
def Obligations.SubIsExact : Prop :=
  ∀ (s : State) (d a b : RegId), 16 ≤ s.cfg.maxw → s.regsWf →
    (s.x b ≤ s.x a → ∃ t, exec (.sub d a b) s = .next t ∧ WroteOne s t d (s.x a - s.x b)) ∧
    (s.x a < s.x b → exec (.sub d a b) s = .next (errorState .under s))

/-- R112: the exact product, or E_CAP. -/
def Obligations.MulIsExact : Prop :=
  ∀ (s : State) (d a b : RegId),
    (clen (s.x a * s.x b) ≤ s.cfg.maxw → ∃ t, exec (.mul d a b) s = .next t ∧ WroteOne s t d (s.x a * s.x b)) ∧
    (s.cfg.maxw < clen (s.x a * s.x b) → exec (.mul d a b) s = .next (errorState .cap s))

/-- R113, R114: quotient and remainder, or E_DIVZERO. -/
def Obligations.DivqAndModDivide : Prop :=
  ∀ (s : State) (d a b : RegId), 16 ≤ s.cfg.maxw → s.regsWf →
    (s.x b ≠ 0 →
      (∃ t, exec (.divq d a b) s = .next t ∧ WroteOne s t d (s.x a / s.x b)) ∧
      (∃ t, exec (.mod d a b) s = .next t ∧ WroteOne s t d (s.x a % s.x b))) ∧
    (s.x b = 0 → exec (.divq d a b) s = .next (errorState .divzero s) ∧
      exec (.mod d a b) s = .next (errorState .divzero s))

/-- R115: both results together, from the values before, also where a destination is a source; or E_DIVZERO. -/
def Obligations.DivremDivides : Prop :=
  ∀ (s : State) (d e a b : RegId), 16 ≤ s.cfg.maxw → s.regsWf → d ≠ e →
    (s.x b ≠ 0 → ∃ t, exec (.divrem d e a b) s = .next t ∧ Holds t d (s.x a / s.x b) ∧ Holds t e (s.x a % s.x b) ∧
      RegsKept [d, e] s t ∧ t.flags = s.flags ∧ Completed .ok s t) ∧
    (s.x b = 0 → exec (.divrem d e a b) s = .next (errorState .divzero s))

/-- R116: the restoring division returns quotient and remainder. -/
def Obligations.RestoringDivisionDivides : Prop :=
  ∀ a b : Nat, 0 < b → restoringDivide a b = (a / b, a % b)

/-- R110, R111: the word-level carry and borrow chains give n + 1 and n words with the exact sum and difference. -/
def Obligations.CarryAndBorrowChains : Prop :=
  ∀ (n : Nat) (a b : List Word), a.length = n → b.length = n →
    (addWords (n + 1) a b 0).length = n + 1 ∧ (subWords n a b 0).1.length = n ∧
    valueOf (addWords (n + 1) a b 0) = valueOf a + valueOf b ∧
    (valueOf b ≤ valueOf a → valueOf (subWords n a b 0).1 = valueOf a - valueOf b ∧ (subWords n a b 0).2 = 0)

/-- R112: the grade-school product over words is the exact product. -/
def Obligations.GradeSchoolProduct : Prop :=
  ∀ a b : List Word, (mulWords a b).length = a.length + b.length ∧ valueOf (mulWords a b) = valueOf a * valueOf b

/-- R117: (a + b) - b = a and (a * b) div b = a, each by two commands, whenever the first result is representable. -/
def Obligations.ArithmeticRoundTrips : Prop :=
  ∀ (s : State) (d e a b : RegId) (cw : Word), 16 ≤ s.cfg.maxw → s.regsWf → d ≠ b →
    (clen (s.x a + s.x b) ≤ s.cfg.maxw → ∃ t u, exec (.add d a b) s = .next t ∧
      exec (.sub e d b) (t.accept cw) = .next u ∧ u.errcode = .ok ∧ u.x e = s.x a) ∧
    (clen (s.x a * s.x b) ≤ s.cfg.maxw → s.x b ≠ 0 → ∃ t u, exec (.mul d a b) s = .next t ∧
      exec (.divq e d b) (t.accept cw) = .next u ∧ u.errcode = .ok ∧ u.x e = s.x a)

/-! ### Modular arithmetic -/

/-- R131 to R134: sum, integer difference, product and floor quotient, each reduced mod m with nothing bounded by MAXW on
the way; E_DIVZERO for a modulus of 0, and for a divisor of 0 in DIVM. -/
def Obligations.ModularCommandsReduce : Prop :=
  ∀ (s : State) (d a b c : RegId), 16 ≤ s.cfg.maxw → s.regsWf →
    (s.x c ≠ 0 →
      (∃ t, exec (.addm d a b c) s = .next t ∧ WroteOne s t d ((s.x a + s.x b) % s.x c)) ∧
      (∃ t, exec (.subm d a b c) s = .next t ∧
        WroteOne s t d (((s.x a : Int) - (s.x b : Int)) % (s.x c : Int)).toNat) ∧
      (∃ t, exec (.mulm d a b c) s = .next t ∧ WroteOne s t d (s.x a * s.x b % s.x c)) ∧
      (s.x b ≠ 0 → ∃ t, exec (.divm d a b c) s = .next t ∧ WroteOne s t d (s.x a / s.x b % s.x c)) ∧
      (s.x b = 0 → exec (.divm d a b c) s = .next (errorState .divzero s))) ∧
    (s.x c = 0 →
      exec (.addm d a b c) s = .next (errorState .divzero s) ∧ exec (.subm d a b c) s = .next (errorState .divzero s) ∧
      exec (.mulm d a b c) s = .next (errorState .divzero s) ∧ exec (.divm d a b c) s = .next (errorState .divzero s))

/-- R135: 1 when the exponent is 0, g^e mod m otherwise; E_DIVZERO for m = 0, also when e = 0. -/
def Obligations.ExpmIsPowerMod : Prop :=
  ∀ (s : State) (d a b c : RegId), 16 ≤ s.cfg.maxw → s.regsWf →
    (s.x c ≠ 0 → ∃ t, exec (.expm d a b c) s = .next t ∧
      WroteOne s t d (if s.x b = 0 then 1 else s.x a ^ s.x b % s.x c)) ∧
    (s.x c = 0 → exec (.expm d a b c) s = .next (errorState .divzero s))

/-! ### Bits and compares -/

/-- R150: left by n ≥ 0 with E_CAP when the exact result does not fit, right by -n for n < 0; always canonical. -/
def Obligations.ShiftBySignedCount : Prop :=
  ∀ (s : State) (p : Pending) (d a : RegId), s.pending = some p → 16 ≤ s.cfg.maxw → s.regsWf →
    (0 ≤ p.arg.toInt → clen (s.x a * 2 ^ p.arg.toInt.toNat) ≤ s.cfg.maxw →
      ∃ t, exec (.shift d a) s = .next t ∧ WroteOne s t d (s.x a * 2 ^ p.arg.toInt.toNat)) ∧
    (0 ≤ p.arg.toInt → s.cfg.maxw < clen (s.x a * 2 ^ p.arg.toInt.toNat) →
      exec (.shift d a) s = .next (errorState .cap s)) ∧
    (p.arg.toInt < 0 →
      ∃ t, exec (.shift d a) s = .next t ∧ WroteOne s t d (s.x a / 2 ^ (-p.arg.toInt).toNat))

/-- R151: T is the bit of the value at the unsigned index, 0 at or above 32 * LEN. -/
def Obligations.TestbitReadsTheBit : Prop :=
  ∀ (s : State) (p : Pending) (a : RegId), s.pending = some p → s.regsWf →
    ∃ t, exec (.testbit a) s = .next t ∧
      WroteFlags s t { s.flags with t := decide (s.x a / 2 ^ p.arg.toNat % 2 = 1) } ∧
      (32 * s.len a ≤ p.arg.toNat → t.flags.t = false)

/-- R152: the bit is set in its word when the index is below 32 * LEN, and nothing is written otherwise; LEN never changes. -/
def Obligations.SetbitSetsOneBit : Prop :=
  ∀ (s : State) (p : Pending) (d : RegId), s.pending = some p → s.regsWf →
    ∃ t, exec (.setbit d) s = .next t ∧ t.len d = s.len d ∧
      (p.arg.toNat < 32 * s.len d →
        t.word d (p.arg.toNat / 32) = s.word d (p.arg.toNat / 32) ||| BitVec.ofNat 32 (2 ^ (p.arg.toNat % 32)) ∧
        ∀ j, j ≠ p.arg.toNat / 32 → t.word d j = s.word d j) ∧
      (32 * s.len d ≤ p.arg.toNat → t.regs = s.regs) ∧
      RegsKept [d] s t ∧ t.flags = s.flags ∧ Completed .ok s t

/-- R153, R154: CMP writes the comparison of the values and keeps T; ISZ writes T and keeps LT, EQ, GT. -/
def Obligations.CmpAndIszCompareValues : Prop :=
  ∀ (s : State) (a b : RegId),
    (∃ t, exec (.cmp a b) s = .next t ∧
      WroteFlags s t ⟨decide (s.x a < s.x b), decide (s.x a = s.x b), decide (s.x b < s.x a), s.flags.t⟩) ∧
    (∃ t, exec (.isz a) s = .next t ∧
      WroteFlags s t ⟨s.flags.lt, s.flags.eq, s.flags.gt, decide (s.x a = 0)⟩)

/-! ### Hash -/

/-- R170, R180, R181: the sizes of Digest-256, its 64 round constants and its initial state, these as roots of primes, which
the spec marks as general knowledge (log entry 21). R184: the bounds on the byte length and the value, then H7 .. H0 in words 0 .. 7, zeros above, LEN 8. -/
def Obligations.Digest256WritesEightWords : Prop :=
  (digest256Params.blockBits = 512 ∧ digest256Params.lenBits = 64 ∧ digest256Params.k.length = 64 ∧
    (∀ t, t < 64 → FractionalRoot 3 (Nat.nth Nat.Prime t) (digest256Params.k.getD t 0)) ∧
    (∀ j, j < 8 → FractionalRoot 2 (Nat.nth Nat.Prime j) (digest256Params.iv.toList.getD j 0))) ∧
  ∀ (s : State) (p : Pending) (d a : RegId), s.pending = some p → 16 ≤ s.cfg.maxw →
    (4 * s.cfg.maxw < p.arg.toNat ∨ 2 ^ (8 * p.arg.toNat) ≤ s.x a →
      exec (.digest256 d a) s = .next (errorState .arg s)) ∧
    (p.arg.toNat ≤ 4 * s.cfg.maxw → s.x a < 2 ^ (8 * p.arg.toNat) →
      ∃ t, exec (.digest256 d a) s = .next t ∧ t.len d = 8 ∧
        (∀ k, k < 8 → t.word d k = (hashMessage digest256Params (s.x a) p.arg.toNat).toList.getD (7 - k) 0) ∧
        (∀ k, 8 ≤ k → k < s.cfg.maxw → t.word d k = 0) ∧
        RegsKept [d] s t ∧ t.flags = s.flags ∧ Completed .ok s t)

/-- R170, R182, R183, R185: as for Digest-256 (log entry 21), with 80 round constants, each 64-bit state word split
low half first, LEN 16. -/
def Obligations.Digest512WritesSixteenWords : Prop :=
  (digest512Params.blockBits = 1024 ∧ digest512Params.lenBits = 128 ∧ digest512Params.k.length = 80 ∧
    (∀ t, t < 80 → FractionalRoot 3 (Nat.nth Nat.Prime t) (digest512Params.k.getD t 0)) ∧
    (∀ j, j < 8 → FractionalRoot 2 (Nat.nth Nat.Prime j) (digest512Params.iv.toList.getD j 0))) ∧
  ∀ (s : State) (p : Pending) (d a : RegId), s.pending = some p → 16 ≤ s.cfg.maxw →
    (4 * s.cfg.maxw < p.arg.toNat ∨ 2 ^ (8 * p.arg.toNat) ≤ s.x a →
      exec (.digest512 d a) s = .next (errorState .arg s)) ∧
    (p.arg.toNat ≤ 4 * s.cfg.maxw → s.x a < 2 ^ (8 * p.arg.toNat) →
      ∃ t, exec (.digest512 d a) s = .next t ∧ t.len d = 16 ∧
        (∀ k, k < 8 →
          t.word d (2 * k) =
            ((hashMessage digest512Params (s.x a) p.arg.toNat).toList.getD (7 - k) 0).extractLsb' 0 32 ∧
          t.word d (2 * k + 1) =
            ((hashMessage digest512Params (s.x a) p.arg.toNat).toList.getD (7 - k) 0).extractLsb' 32 32) ∧
        (∀ k, 16 ≤ k → k < s.cfg.maxw → t.word d k = 0) ∧
        RegsKept [d] s t ∧ t.flags = s.flags ∧ Completed .ok s t)

/-- R173, R174: the padding is the least that fills the last block, which the spec marks as general knowledge (item G3, log
entry 21); block i is the slice of the padded message that R174 names, below 2^BS, and the blocks put end to end, first block
most significant, are the padded message. -/
def Obligations.PaddingFillsBlocks : Prop :=
  ∀ (w : Nat) (p : DigestParams w) (m n : Nat), 0 < p.blockBits → m < 2 ^ (8 * n) → 8 * n < 2 ^ p.lenBits →
    (8 * n + 1 + padZeros p (8 * n) + p.lenBits) % p.blockBits = 0 ∧
    (∀ k, k < padZeros p (8 * n) → (8 * n + 1 + k + p.lenBits) % p.blockBits ≠ 0) ∧
    p.blockBits * blockCount p n = 8 * n + 1 + padZeros p (8 * n) + p.lenBits ∧
    (blocksOf p m n).length = blockCount p n ∧
    (∀ i, 1 ≤ i → i ≤ blockCount p n → (blocksOf p m n).getD (i - 1) 0 =
      (m * 2 ^ (1 + padZeros p (8 * n) + p.lenBits) + 2 ^ (padZeros p (8 * n) + p.lenBits) + 8 * n) /
        2 ^ (p.blockBits * (blockCount p n - i)) % 2 ^ p.blockBits) ∧
    (∀ b ∈ blocksOf p m n, b < 2 ^ p.blockBits) ∧
    (blocksOf p m n).foldl (fun acc b => acc * 2 ^ p.blockBits + b) 0 =
      m * 2 ^ (1 + padZeros p (8 * n) + p.lenBits) + 2 ^ (padZeros p (8 * n) + p.lenBits) + 8 * n

/-- R175: the schedule has one word a round, the first sixteen from the block, each later one by the recurrence. R177: the
rounds take the state words through v 0, v 1, .., one round each, and the last is added to the first. R178: the blocks of R174
are compressed in order, from the initial state. The spec marks the recurrence and the rounds as general knowledge (log
entry 21). -/
def Obligations.ScheduleRoundsAndChaining : Prop :=
  ∀ (w : Nat) (p : DigestParams w), 16 ≤ p.k.length →
    (∀ blk t : Nat, (schedule p blk).length = p.k.length ∧
      (t < 16 → (schedule p blk).getD t 0 = BitVec.ofNat w (blk / 2 ^ (w * (15 - t)))) ∧
      (16 ≤ t → t < p.k.length → (schedule p blk).getD t 0 =
        smallSigma p.smallSigma1 ((schedule p blk).getD (t - 2) 0) + (schedule p blk).getD (t - 7) 0 +
          smallSigma p.smallSigma0 ((schedule p blk).getD (t - 15) 0) + (schedule p blk).getD (t - 16) 0)) ∧
    (∀ (st : HashState w) (blk : Nat), ∃ v : Nat → HashState w, v 0 = st ∧
      (∀ t, t < p.k.length →
        let t1 := (v t).h + bigSigma p.bigSigma1 (v t).e + ch (v t).e (v t).f (v t).g + p.k.getD t 0 +
          (schedule p blk).getD t 0
        let t2 := bigSigma p.bigSigma0 (v t).a + maj (v t).a (v t).b (v t).c
        (v (t + 1)).h = (v t).g ∧ (v (t + 1)).g = (v t).f ∧ (v (t + 1)).f = (v t).e ∧ (v (t + 1)).e = (v t).d + t1 ∧
          (v (t + 1)).d = (v t).c ∧ (v (t + 1)).c = (v t).b ∧ (v (t + 1)).b = (v t).a ∧ (v (t + 1)).a = t1 + t2) ∧
      ∀ j, j < 8 → (compress p st blk).toList.getD j 0 = st.toList.getD j 0 + (v p.k.length).toList.getD j 0) ∧
    (∀ m n : Nat, ∃ s : Nat → HashState w, s 0 = p.iv ∧
      (∀ i, i < blockCount p n → s (i + 1) = compress p (s i)
        (paddedMessage p m n / 2 ^ (p.blockBits * (blockCount p n - (i + 1))) % 2 ^ p.blockBits)) ∧
      hashMessage p m n = s (blockCount p n))

/-- R176: ROTR and SHR in the spec's arithmetic, Ch and Maj bit by bit, and the counts of the four functions of each digest, which
the spec marks as general knowledge (log entry 21). -/
def Obligations.HashFunctions : Prop :=
  (∀ (w r : Nat) (x : BitVec w), r ≤ w →
    (rotr r x).toNat = x.toNat / 2 ^ r + x.toNat * 2 ^ (w - r) % 2 ^ w ∧ (x >>> r).toNat = x.toNat / 2 ^ r) ∧
  (∀ (w i : Nat) (x y z : BitVec w), i < w →
    (ch x y z).getLsbD i = ((x.getLsbD i && y.getLsbD i) ^^ (!x.getLsbD i && z.getLsbD i)) ∧
    (maj x y z).getLsbD i =
      (((x.getLsbD i && y.getLsbD i) ^^ (x.getLsbD i && z.getLsbD i)) ^^ (y.getLsbD i && z.getLsbD i))) ∧
  (∀ x : BitVec 32,
    bigSigma digest256Params.bigSigma0 x = rotr 2 x ^^^ rotr 13 x ^^^ rotr 22 x ∧
    bigSigma digest256Params.bigSigma1 x = rotr 6 x ^^^ rotr 11 x ^^^ rotr 25 x ∧
    smallSigma digest256Params.smallSigma0 x = rotr 7 x ^^^ rotr 18 x ^^^ (x >>> 3) ∧
    smallSigma digest256Params.smallSigma1 x = rotr 17 x ^^^ rotr 19 x ^^^ (x >>> 10)) ∧
  (∀ x : BitVec 64,
    bigSigma digest512Params.bigSigma0 x = rotr 28 x ^^^ rotr 34 x ^^^ rotr 39 x ∧
    bigSigma digest512Params.bigSigma1 x = rotr 14 x ^^^ rotr 18 x ^^^ rotr 41 x ∧
    smallSigma digest512Params.smallSigma0 x = rotr 1 x ^^^ rotr 8 x ^^^ (x >>> 7) ∧
    smallSigma digest512Params.smallSigma1 x = rotr 19 x ^^^ rotr 61 x ^^^ (x >>> 6))

/-! ### Number theory -/

/-- R200: the greatest common divisor, gcd(0, 0) = 0 among its values. -/
def Obligations.GcdIsGreatestDivisor : Prop :=
  ∀ (s : State) (d a b : RegId), 16 ≤ s.cfg.maxw → s.regsWf →
    ∃ t, exec (.gcd d a b) s = .next t ∧ WroteOne s t d (Nat.gcd (s.x a) (s.x b))

/-- R201: for a, b > 0 the gcd and the coefficients of the unreduced loop, reduced mod M, so that s*a + t*b ≡ g (mod M);
(0, 0, 0) when a = 0 or b = 0; E_DIVZERO when M = 0, checked first. -/
def Obligations.EeaGivesBezout : Prop :=
  ∀ (s : State) (d e f a b c : RegId), 16 ≤ s.cfg.maxw → s.regsWf → d ≠ e → d ≠ f → e ≠ f →
    (s.x c ≠ 0 → s.x a ≠ 0 → s.x b ≠ 0 →
      ∃ t, exec (.eea d e f a b c) s = .next t ∧ Holds t d (Nat.gcd (s.x a) (s.x b)) ∧
        Holds t e (Nat.gcdB (s.x b) (s.x a) % (s.x c : Int)).toNat ∧
        Holds t f (Nat.gcdA (s.x b) (s.x a) % (s.x c : Int)).toNat ∧
        (t.x e * s.x a + t.x f * s.x b) % s.x c = t.x d % s.x c ∧
        RegsKept [d, e, f] s t ∧ t.flags = s.flags ∧ Completed .ok s t) ∧
    (s.x c ≠ 0 → (s.x a = 0 ∨ s.x b = 0) →
      ∃ t, exec (.eea d e f a b c) s = .next t ∧ Holds t d 0 ∧ Holds t e 0 ∧ Holds t f 0 ∧
        RegsKept [d, e, f] s t ∧ t.flags = s.flags ∧ Completed .ok s t) ∧
    (s.x c = 0 → exec (.eea d e f a b c) s = .next (errorState .divzero s))

/-- R202: t of EEA(m, x, m) is written whatever the gcd; T = 1 exactly when the gcd of that EEA is 1, and then t is the
inverse of x mod m. -/
def Obligations.MinvInverts : Prop :=
  ∀ (s : State) (d a c : RegId), 16 ≤ s.cfg.maxw → s.regsWf →
    (s.x c ≠ 0 → ∃ t, exec (.minv d a c) s = .next t ∧
      Holds t d (if s.x a = 0 then 0 else (Nat.gcdA (s.x a) (s.x c) % (s.x c : Int)).toNat) ∧
      t.flags = { s.flags with t := decide (s.x a ≠ 0 ∧ Nat.gcd (s.x a) (s.x c) = 1) } ∧
      (t.flags.t = true → s.x a * t.x d % s.x c = 1 % s.x c) ∧
      RegsKept [d] s t ∧ Completed .ok s t) ∧
    (s.x c = 0 → exec (.minv d a c) s = .next (errorState .divzero s))

/-- R203, R204: T = 1 for n = 3 and for n > 3 that is a strong probable prime to every witness below n - 1, T = 0
otherwise. -/
def Obligations.IsprimeIsMillerRabin : Prop :=
  ∀ (s : State) (a : RegId), ∃ t b, exec (.isprime a) s = .next t ∧ WroteFlags s t { s.flags with t := b } ∧
    (b = true ↔ s.x a = 3 ∨ (3 < s.x a ∧ ∀ wt ∈
      [2, 3, 5, 7, 11, 13, 17, 19, 23, 29, 31, s.cfg.mrTail.t0, s.cfg.mrTail.t1, s.cfg.mrTail.t2],
      wt < s.x a - 1 → StrongProbablePrime (s.x a) wt))

/-- R203: every prime n ≥ 3 gives T = 1 whatever MR_TAIL is; n < 3 and every even n ≥ 4 give T = 0. -/
def Obligations.PrimesPassIsprime : Prop :=
  ∀ (s : State) (a : RegId), s.cfg.legal → ∃ t, exec (.isprime a) s = .next t ∧
    (Nat.Prime (s.x a) → 3 ≤ s.x a → t.flags.t = true) ∧
    (s.x a < 3 → t.flags.t = false) ∧ (4 ≤ s.x a → s.x a % 2 = 0 → t.flags.t = false)

/-! ### State and invariant -/

/-- R23: the value of a register is the weighted sum of its words, and is below 2^(32 LEN). -/
def Obligations.ValueIsSumOfWords : Prop :=
  ∀ (s : State) (i : RegId), s.regsWf →
    s.x i = ∑ j ∈ Finset.range s.cfg.maxw, (s.word i j).toNat * 2 ^ (32 * j) ∧ s.x i < 2 ^ (32 * s.len i)

/-- R7, R21, R22, R39, R65, R230: legal parameters, LEN within MAXW, words at and above LEN zero, and a full PENDING slot
in step with CMD, ARG, DONE and ERRCODE, are kept by every step. That the parameters stand in the state, and that the storage
is a list of MAXW words, are the model's form (log entries 1, 20). -/
def Obligations.StepKeepsInvariant : Prop :=
  ∀ s t : State, s.Inv → step s = .next t → t.Inv

/-- The invariant holds after reset, in every legal build and in the one State.reset is written for. -/
def Obligations.ResetMeetsInvariant : Prop :=
  (∀ c : Config, c.legal → (State.resetOf c).Inv) ∧ State.reset.Inv

/-- R42: the reset value of every field, in every build. -/
def Obligations.ResetValues : Prop :=
  ∀ c : Config,
    (∀ i : RegId, (State.resetOf c).len i = 0 ∧ (State.resetOf c).x i = 0 ∧ ∀ j, (State.resetOf c).word i j = 0) ∧
    (State.resetOf c).flags = ⟨false, false, false, false⟩ ∧ (State.resetOf c).ie = false ∧
    statusWord (State.resetOf c) = 0 ∧ (State.resetOf c).errcode = .ok ∧ (State.resetOf c).arg = 0 ∧
    (State.resetOf c).cmd = 0 ∧ (State.resetOf c).pending = none ∧ (State.resetOf c).irq = false ∧
    (State.resetOf c).cfg = c

/-- R250, R251: a hard reset and a CTRL write with bit 1 set have one effect, at any time: every field at its reset
value, a pending command aborted, CAPS unchanged. A completion beside the reset, before or after it, changes nothing.
That what is still on its way to the port stays, and that an engine turn with PENDING empty changes nothing, are the model's
choices (log entries 3, 24). -/
def Obligations.ResetEffect : Prop :=
  ∀ (s : State) (rest : List Event) (v : Word), v.getLsbD 1 = true →
    ∃ t, step { s with inputs := .hardReset :: rest } = .next t ∧
      step { s with inputs := memWrite s.cfg 0x004 v :: rest } = .next t ∧
      (∀ i : RegId, t.len i = 0 ∧ t.x i = 0 ∧ ∀ j, t.word i j = 0) ∧
      t.flags = ⟨false, false, false, false⟩ ∧ t.ie = false ∧ t.busy = false ∧ t.done = false ∧ t.herr = false ∧
      t.errcode = .ok ∧ t.arg = 0 ∧ t.cmd = 0 ∧ t.pending = none ∧ t.cfg = s.cfg ∧ t.inputs = rest ∧
      Sys2Proof.core.run 2 { s with inputs := .engine :: memWrite s.cfg 0x004 v :: rest } = .next t ∧
      Sys2Proof.core.run 2 { s with inputs := memWrite s.cfg 0x004 v :: .engine :: rest } = .next t

/-- R7, R204: no step changes MAXW, BASE or MR_TAIL, which the model holds in the state (log entry 1). -/
def Obligations.ParametersAreFixed : Prop :=
  ∀ s t : State, step s = .next t → t.cfg = s.cfg

/-! ### The register window -/

/-- R51: an access is refused exactly when it is not a single 32-bit access at a multiple of 4 inside the window; that an
address outside the window is refused too is the model's inference (log entry 12). -/
def Obligations.OnlyAdmittedAccessesStep : Prop :=
  ∀ (s : State) (a : Access) (rest : List Event),
    ((a.mode = .single ∧ a.width = 4 ∧ s.cfg.base ≤ a.addr ∧ a.addr < s.cfg.base + 0x20000 ∧
        (a.addr - s.cfg.base) % 4 = 0) → ∃ t, step { s with inputs := .access a :: rest } = .next t) ∧
    (¬(a.mode = .single ∧ a.width = 4 ∧ s.cfg.base ≤ a.addr ∧ a.addr < s.cfg.base + 0x20000 ∧
        (a.addr - s.cfg.base) % 4 = 0) →
      step { s with inputs := .access a :: rest } = .refused .accessNotAdmitted)

/-- R222: a CMD write while BUSY = 0 fills PENDING with the word and the ARG of that moment, clears DONE and ERRCODE, and
changes nothing else; IRQ falls. R35, R36: an ARG write while BUSY = 0 stores the value and changes nothing else, and reads
of ARG and CMD give the value and the last accepted word. -/
def Obligations.CmdAndArgWhileIdle : Prop :=
  ∀ (s : State) (v : Word) (rest : List Event), s.pending = none →
    (∃ t, step { s with inputs := memWrite s.cfg 0x014 v :: rest } = .next t ∧
      t = { s with inputs := rest, pending := some ⟨v, s.arg⟩, cmd := v, done := false, errcode := .ok } ∧
      t.busy = true ∧ t.err = false ∧ t.irq = false) ∧
    step { s with inputs := memWrite s.cfg 0x010 v :: rest } = .next { s with inputs := rest, arg := v } ∧
    step { s with inputs := memRead s.cfg 0x010 :: rest } = .next { s with inputs := rest, readData := some s.arg } ∧
    step { s with inputs := memRead s.cfg 0x014 :: rest } = .next { s with inputs := rest, readData := some s.cmd }

/-- R58, R223: while BUSY = 1 a write to ARG, CMD, REGLEN or REGWORD is dropped and sets HERR. -/
def Obligations.WritesWhileBusyAreDropped : Prop :=
  ∀ (s : State) (v : Word) (rest : List Event) (r : RegId) (j : Nat), s.pending ≠ none → j < 1024 →
    ∀ off ∈ [0x010, 0x014, 0x100 + 4 * r.val, 0x10000 + 0x1000 * r.val + 4 * j],
      step { s with inputs := memWrite s.cfg off v :: rest } = .next { s with inputs := rest, herr := true }

/-- R58: while BUSY = 1 a read of FLAGS, REGLEN or REGWORD is a fresh draw, and CAPS, CTRL, STATUS, ARG and CMD read as
usual; no read changes the device. The draw as a free value, and its being one for every j, are the model's form (log
entries 6, 7). -/
def Obligations.ReadsWhileBusy : Prop :=
  ∀ (s : State) (rest : List Event) (r : RegId) (j : Nat), s.pending ≠ none → j < 1024 →
    (∀ off ∈ [0x00C, 0x100 + 4 * r.val, 0x10000 + 0x1000 * r.val + 4 * j],
      step { s with inputs := memRead s.cfg off :: rest } =
        .next { s with inputs := rest, readData := some (Config.freeWord s.draws), draws := s.draws + 1 }) ∧
    (∀ q ∈ [(0x000, capsWord s.cfg), (0x004, ctrlWord s), (0x008, statusWord s), (0x010, s.arg), (0x014, s.cmd)],
      step { s with inputs := memRead s.cfg q.1 :: rest } = .next { s with inputs := rest, readData := some q.2 })

/-- R56, R57: REGWORD[r][j] while BUSY = 0. A read gives the word, 0 at j ≥ MAXW. A write at j < LEN replaces that word
and keeps LEN; any other write is ignored and sets HERR. -/
def Obligations.RegwordAccess : Prop :=
  ∀ (s : State) (rest : List Event) (r : RegId) (j : Nat) (v : Word), s.Inv → s.pending = none → j < 1024 →
    step { s with inputs := memRead s.cfg (0x10000 + 0x1000 * r.val + 4 * j) :: rest } =
      .next { s with inputs := rest, readData := some (if j < s.cfg.maxw then s.word r j else 0) } ∧
    (j < s.len r → ∃ t, step { s with inputs := memWrite s.cfg (0x10000 + 0x1000 * r.val + 4 * j) v :: rest } = .next t ∧
      t.word r j = v ∧ (∀ k, k ≠ j → t.word r k = s.word r k) ∧ t.len r = s.len r ∧ RegsKept [r] s t ∧
      t = { s with inputs := rest, regs := t.regs }) ∧
    (s.len r ≤ j → step { s with inputs := memWrite s.cfg (0x10000 + 0x1000 * r.val + 4 * j) v :: rest } =
      .next { s with inputs := rest, herr := true })

/-- R37, R55: REGLEN[r] while BUSY = 0. A read gives LEN. A write of n ≤ MAXW sets LEN, keeps the words below n and
zeroes the others, so the value becomes its residue mod 2^(32n); a larger n is ignored and sets HERR. That n is bits 10:0 of
the data, the reserved bits ignored, is the model's inference from item I12 (log entry 8). -/
def Obligations.ReglenAccess : Prop :=
  ∀ (s : State) (rest : List Event) (r : RegId) (v : Word) (n : Nat), s.Inv → s.pending = none →
    n = v.toNat % 2 ^ 11 →
    step { s with inputs := memRead s.cfg (0x100 + 4 * r.val) :: rest } =
      .next { s with inputs := rest, readData := some (BitVec.ofNat 32 (s.len r)) } ∧
    (n ≤ s.cfg.maxw → ∃ t, step { s with inputs := memWrite s.cfg (0x100 + 4 * r.val) v :: rest } = .next t ∧
      t.len r = n ∧ (∀ j, j < n → t.word r j = s.word r j) ∧
      (∀ j, n ≤ j → j < s.cfg.maxw → t.word r j = 0) ∧ t.x r = s.x r % 2 ^ (32 * n) ∧
      RegsKept [r] s t ∧ t = { s with inputs := rest, regs := t.regs }) ∧
    (s.cfg.maxw < n → step { s with inputs := memWrite s.cfg (0x100 + 4 * r.val) v :: rest } =
      .next { s with inputs := rest, herr := true })

/-- R54: a reserved offset reads 0; a write to one, to CAPS or to FLAGS is ignored and sets HERR, at any time. A write to
CTRL or STATUS that changes reserved bits only changes nothing and sets no HERR. -/
def Obligations.RejectedAccesses : Prop :=
  ∀ (s : State) (rest : List Event) (off : Nat) (v : Word), off % 4 = 0 →
    ((0x018 ≤ off ∧ off ≤ 0x0FC) ∨ (0x140 ≤ off ∧ off ≤ 0xFFFC) →
      step { s with inputs := memRead s.cfg off :: rest } = .next { s with inputs := rest, readData := some 0 } ∧
      step { s with inputs := memWrite s.cfg off v :: rest } = .next { s with inputs := rest, herr := true }) ∧
    (off = 0x000 ∨ off = 0x00C →
      step { s with inputs := memWrite s.cfg off v :: rest } = .next { s with inputs := rest, herr := true }) ∧
    (v.getLsbD 0 = s.ie → v.getLsbD 1 = false →
      step { s with inputs := memWrite s.cfg 0x004 v :: rest } = .next { s with inputs := rest }) ∧
    (v.getLsbD 1 = false → v.getLsbD 3 = false →
      step { s with inputs := memWrite s.cfg 0x008 v :: rest } = .next { s with inputs := rest })

/-- R33: CTRL reads IE in bit 0 and 0 elsewhere; a write without SRST sets IE from bit 0 and changes nothing else, at any
time; a write with SRST is a reset. -/
def Obligations.CtrlRegister : Prop :=
  ∀ (s : State) (rest : List Event) (v : Word),
    (∃ x : Word, step { s with inputs := memRead s.cfg 0x004 :: rest } =
        .next { s with inputs := rest, readData := some x } ∧
      x.getLsbD 0 = s.ie ∧ ∀ i, 1 ≤ i → x.getLsbD i = false) ∧
    (v.getLsbD 1 = false → step { s with inputs := memWrite s.cfg 0x004 v :: rest } =
      .next { s with inputs := rest, ie := v.getLsbD 0 }) ∧
    (v.getLsbD 1 = true → step { s with inputs := memWrite s.cfg 0x004 v :: rest } =
      step { s with inputs := .hardReset :: rest })

/-- R34, R220, R235: the bits STATUS reads as, the error codes by their numbers, and a write: bit 1 clears DONE, bit 3 clears HERR, nothing else, at any time. -/
def Obligations.StatusRegister : Prop :=
  ∀ (s : State) (rest : List Event) (v : Word),
    (∃ x : Word, step { s with inputs := memRead s.cfg 0x008 :: rest } =
        .next { s with inputs := rest, readData := some x } ∧
      x.getLsbD 0 = s.pending.isSome ∧ x.getLsbD 1 = s.done ∧ x.getLsbD 2 = decide (s.errcode ≠ .ok) ∧
      x.getLsbD 3 = s.herr ∧ x.extractLsb' 4 4 = 0 ∧ x.extractLsb' 8 8 = (match s.errcode with
        | .ok => 0 | .illegal => 1 | .divzero => 2 | .under => 3 | .arg => 4 | .cap => 5) ∧
      x.extractLsb' 16 16 = 0) ∧
    step { s with inputs := memWrite s.cfg 0x008 v :: rest } =
      .next { s with
        inputs := rest
        done := if v.getLsbD 1 then false else s.done
        herr := if v.getLsbD 3 then false else s.herr }

/-- R30, R32: the bits CAPS reads as, and the bits FLAGS reads as while BUSY = 0. -/
def Obligations.CapsAndFlagsReads : Prop :=
  ∀ (s : State) (rest : List Event), s.cfg.legal →
    (∃ x : Word, step { s with inputs := memRead s.cfg 0x000 :: rest } =
        .next { s with inputs := rest, readData := some x } ∧
      x.extractLsb' 0 8 = 16 ∧ x.extractLsb' 8 8 = 0 ∧ (x.extractLsb' 16 16).toNat = s.cfg.maxw) ∧
    (s.pending = none →
      ∃ x : Word, step { s with inputs := memRead s.cfg 0x00C :: rest } =
          .next { s with inputs := rest, readData := some x } ∧
        x.getLsbD 0 = s.flags.lt ∧ x.getLsbD 1 = s.flags.eq ∧ x.getLsbD 2 = s.flags.gt ∧ x.getLsbD 3 = s.flags.t ∧
        ∀ i, 4 ≤ i → x.getLsbD i = false)

/-- R40, R227: IRQ is IE and DONE. A completion sets DONE, so it raises IRQ when enabled, with or without error; a STATUS
write with bit 1, the next acceptance and a reset, hard or soft, drop it; a CTRL write drops it with IE = 0, which keeps DONE, and raises it
at once with IE = 1 while DONE = 1. -/
def Obligations.CompletionInterrupt : Prop :=
  ∀ (s : State) (rest : List Event) (v : Word),
    (s.irq = true ↔ s.ie = true ∧ s.done = true) ∧
    (s.pending ≠ none → ∃ t, step { s with inputs := .engine :: rest } = .next t ∧ t.done = true ∧ t.irq = s.ie) ∧
    (v.getLsbD 1 = true →
      ∃ t, step { s with inputs := memWrite s.cfg 0x008 v :: rest } = .next t ∧ t.irq = false ∧ t.ie = s.ie) ∧
    (s.pending = none →
      ∃ t, step { s with inputs := memWrite s.cfg 0x014 v :: rest } = .next t ∧ t.irq = false ∧ t.ie = s.ie) ∧
    (∃ t, step { s with inputs := .hardReset :: rest } = .next t ∧ t.irq = false) ∧
    (v.getLsbD 1 = true → ∃ t, step { s with inputs := memWrite s.cfg 0x004 v :: rest } = .next t ∧ t.irq = false) ∧
    (v.getLsbD 1 = false →
      ∃ t, step { s with inputs := memWrite s.cfg 0x004 v :: rest } = .next t ∧
        t.irq = (v.getLsbD 0 && s.done) ∧ t.done = s.done)

/-! ### Runs -/

/-- R262: within finitely many steps, at the latest in the step after the last input, where the engine moves (log entry 4), an
accepted command completes, on the registers and flags of its acceptance (R65, R224), or the input just taken is a reset that
aborts it (R251). -/
def Obligations.AcceptedCommandCompletesOrIsAborted : Prop :=
  ∀ (s : State) (p : Pending), s.pending = some p → s.inputsAllowed →
    ∃ (k : Nat) (t : State), k ≤ s.inputs.length + 1 ∧ Sys2Proof.core.run k s = .next t ∧ t.pending = none ∧
      ((t.done = true ∧ ∃ u : State, u.regs = s.regs ∧ u.flags = s.flags ∧ u.cfg = s.cfg ∧ u.pending = some p ∧
          engineTurn u = .next t) ∨
        (t.done = false ∧ t.regs = (State.resetOf s.cfg).regs ∧
          (s.inputs[k - 1]? = some .hardReset ∨
            ∃ v : Word, v.getLsbD 1 = true ∧ s.inputs[k - 1]? = some (memWrite s.cfg 0x004 v))))

/-- R257: writing REGLEN and then the words of a value, in any order, loads that value, and sets no HERR. The word writes are
those R257 names, one for each j below clen v. -/
def Obligations.OperandLoadLoads : Prop :=
  ∀ (s : State) (r : RegId) (v : Nat) (ws : List Event), s.Inv → s.pending = none → clen v ≤ s.cfg.maxw →
    loadWords s.cfg r (toWords (clen v) v) 0 = ((List.range (clen v)).map fun j =>
      memWrite s.cfg (0x10000 + 0x1000 * r.val + 4 * j) (BitVec.ofNat 32 (v / 2 ^ (32 * j)))) ∧
    (ws.Perm (loadWords s.cfg r (toWords (clen v) v) 0) →
      s.inputs = memWrite s.cfg (0x100 + 4 * r.val) (BitVec.ofNat 32 (clen v)) :: ws →
      ∃ t : State, Sys2Proof.core.run (clen v + 1) s = .next t ∧ Holds t r v ∧ RegsKept [r] s t ∧
        t = { s with inputs := [], regs := t.regs })

/-- R92: from an idle state the host sequence of each pseudo-instruction runs its command, with the value it writes to ARG
where it writes one, and its `WAIT` ends with a read of BUSY = 0, however many reads have found BUSY = 1 (`k`; log entry 17).
So LI loads the value, SHL and SHR multiply and divide by 2^n, CLR leaves canonical 0 and WIPE LEN 0. -/
def Obligations.PseudoInstructionsRun : Prop :=
  ∀ (s : State) (d a m : RegId) (n k : Nat) (v : Word) (i : Instr), s.Inv → s.pending = none →
    (∀ q ∈ [(Pseudo.li d v, v, Instr.ldi d), (.shl d a n, BitVec.ofNat 32 n, .shift d a),
        (.shr d a n, BitVec.ofNat 32 ((2 ^ 32 - n) % 2 ^ 32), .shift d a), (.btst a v, v, .testbit a),
        (.bset d v, v, .setbit d), (.sha256 d a v, v, .digest256 d a), (.sha512 d a v, v, .digest512 d a),
        (.clr d, 0, .ldi d)],
      q.1.wellFormed = true → s.inputs = q.1.expand s.cfg k →
      ∃ t, exec q.2.2 (({ s with arg := q.2.1, inputs := [] } : State).accept (encode q.2.2)) = .next t ∧
        Sys2Proof.core.run (k + 4) s = .next { t with readData := some (statusWord t) } ∧ t.busy = false) ∧
    (∀ q ∈ [(Pseudo.inv d a m, Instr.minv d a m), (.c i, i)], q.1.wellFormed = true → s.inputs = q.1.expand s.cfg k →
      ∃ t, exec q.2 (({ s with inputs := [] } : State).accept (encode q.2)) = .next t ∧
        Sys2Proof.core.run (k + 3) s = .next { t with readData := some (statusWord t) } ∧ t.busy = false) ∧
    (∀ q ∈ [(Pseudo.li d v, v.toNat), (.shl d a n, s.x a * 2 ^ n), (.shr d a n, s.x a / 2 ^ n), (.clr d, 0)],
      q.1.wellFormed = true → s.inputs = q.1.expand s.cfg k → clen q.2 ≤ s.cfg.maxw →
      ∃ t : State, Sys2Proof.core.run (k + 4) s = .next t ∧ Holds t d q.2 ∧ RegsKept [d] s t ∧ t.errcode = .ok) ∧
    (s.inputs = (Pseudo.wipe d).expand s.cfg k →
      ∃ t : State, Sys2Proof.core.run 1 s = .next t ∧ t.len d = 0 ∧ t.x d = 0 ∧ RegsKept [d] s t)
end

