-- ==== Sys2Proof/Laws/Decode.lean ====
section
/-! SUPPORT. Command words bit by bit: the fields of a packed word, and a packed word under a packed mask. -/

namespace Sys2Proof

theorem regBits_toFin (r : RegId) : (regBits r).toFin = r := rfl

theorem regBits_eq (v : BitVec 4) (r : RegId) (h : v = regBits r) : (v.toFin : RegId) = r := by
  subst h; rfl

theorem getLsbD_packWord (o : BitVec 8) (r : Fields) (i : Nat) : (packWord o r).getLsbD i =
    if i < 8 then o.getLsbD i
    else if i < 12 then (regBits r.d).getLsbD (i - 8)
    else if i < 16 then (regBits r.e).getLsbD (i - 12)
    else if i < 20 then (regBits r.a).getLsbD (i - 16)
    else if i < 24 then (regBits r.b).getLsbD (i - 20)
    else if i < 28 then (regBits r.c).getLsbD (i - 24)
    else (regBits r.f).getLsbD (i - 28) := by
  unfold packWord
  simp only [BitVec.getLsbD_append, Nat.sub_sub]
  by_cases h1 : i < 8
  · simp [h1]
  by_cases h2 : i < 12
  · have : i - 8 < 4 := by omega
    simp [h1, h2, this]
  by_cases h3 : i < 16
  · have a1 : ¬ i - 8 < 4 := by omega
    have a2 : i - 12 < 4 := by omega
    simp [h1, h2, h3, a1, a2]
  by_cases h4 : i < 20
  · have a1 : ¬ i - 8 < 4 := by omega
    have a2 : ¬ i - 12 < 4 := by omega
    have a3 : i - 16 < 4 := by omega
    simp [h1, h2, h3, h4, a1, a2, a3]
  by_cases h5 : i < 24
  · have a1 : ¬ i - 8 < 4 := by omega
    have a2 : ¬ i - 12 < 4 := by omega
    have a3 : ¬ i - 16 < 4 := by omega
    have a4 : i - 20 < 4 := by omega
    simp [h1, h2, h3, h4, h5, a1, a2, a3, a4]
  by_cases h6 : i < 28
  · have a1 : ¬ i - 8 < 4 := by omega
    have a2 : ¬ i - 12 < 4 := by omega
    have a3 : ¬ i - 16 < 4 := by omega
    have a4 : ¬ i - 20 < 4 := by omega
    have a5 : i - 24 < 4 := by omega
    simp [h1, h2, h3, h4, h5, h6, a1, a2, a3, a4, a5]
  · have a1 : ¬ i - 8 < 4 := by omega
    have a2 : ¬ i - 12 < 4 := by omega
    have a3 : ¬ i - 16 < 4 := by omega
    have a4 : ¬ i - 20 < 4 := by omega
    have a5 : ¬ i - 24 < 4 := by omega
    simp [h1, h2, h3, h4, h5, h6, a1, a2, a3, a4, a5]

/-- OPC of a packed word (R81). -/
@[simp] theorem opcField_packWord (o : BitVec 8) (r : Fields) : opcField (packWord o r) = o := by
  apply BitVec.eq_of_getLsbD_eq
  intro i hi
  unfold opcField
  rw [BitVec.getLsbD_extractLsb', Nat.zero_add, getLsbD_packWord]
  simp [hi]

theorem regField_packWord (o : BitVec 8) (r : Fields) (lo : Nat) (x : RegId)
    (h : ∀ i, i < 4 → (packWord o r).getLsbD (lo + i) = (regBits x).getLsbD i) : regField (packWord o r) lo = x := by
  apply regBits_eq
  apply BitVec.eq_of_getLsbD_eq
  intro i hi
  rw [BitVec.getLsbD_extractLsb']
  simp [hi, h i hi]

/-- The fields of a packed word are the fields it was packed from (R81). -/
@[simp] theorem fieldsOf_packWord (o : BitVec 8) (r : Fields) : fieldsOf (packWord o r) = r := by
  unfold fieldsOf
  congr 1 <;>
  · apply regField_packWord
    intro i hi
    rw [getLsbD_packWord]
    split_ifs <;> first | omega | (congr 1; omega)

/-- A register field under a mask field. -/
def maskReg (r m : RegId) : RegId := (regBits r &&& regBits m).toFin

/-- A packed word under a packed mask, field by field (R84, R87). -/
theorem packWord_and (o p : BitVec 8) (r m : Fields) : packWord o r &&& packWord p m =
    packWord (o &&& p) ⟨maskReg r.d m.d, maskReg r.e m.e, maskReg r.a m.a, maskReg r.b m.b, maskReg r.c m.c,
      maskReg r.f m.f⟩ := by
  apply BitVec.eq_of_getLsbD_eq
  intro i hi
  rw [BitVec.getLsbD_and]
  simp only [getLsbD_packWord]
  have hm : ∀ x y : RegId, ∀ k, (regBits (maskReg x y)).getLsbD k = ((regBits x).getLsbD k && (regBits y).getLsbD k) := by
    intro x y k
    show (regBits x &&& regBits y).getLsbD k = _
    rw [BitVec.getLsbD_and]
  split_ifs <;> simp [hm, BitVec.getLsbD_and]

@[simp] theorem maskReg_zero (m : RegId) : maskReg 0 m = 0 := by revert m; decide
@[simp] theorem maskReg_ignored (r : RegId) : maskReg r 0 = 0 := by revert r; decide

end Sys2Proof
end

