-- ==== Sys2Proof/Laws/State.lean ====
section
/-! SUPPORT. One lemma per field per update of the state, each true by rfl, so that no later proof unfolds a record update. -/

namespace Sys2Proof.Machine

@[simp] theorem State.setReg_cfg (s : State) (i : RegId) (r : Reg) : (s.setReg i r).cfg = s.cfg := rfl
@[simp] theorem State.setReg_regs (s : State) (i : RegId) (r : Reg) : (s.setReg i r).regs = s.regs.set i.val r i.isLt := rfl
@[simp] theorem State.setReg_flags (s : State) (i : RegId) (r : Reg) : (s.setReg i r).flags = s.flags := rfl
@[simp] theorem State.setReg_ie (s : State) (i : RegId) (r : Reg) : (s.setReg i r).ie = s.ie := rfl
@[simp] theorem State.setReg_done (s : State) (i : RegId) (r : Reg) : (s.setReg i r).done = s.done := rfl
@[simp] theorem State.setReg_herr (s : State) (i : RegId) (r : Reg) : (s.setReg i r).herr = s.herr := rfl
@[simp] theorem State.setReg_errcode (s : State) (i : RegId) (r : Reg) : (s.setReg i r).errcode = s.errcode := rfl
@[simp] theorem State.setReg_arg (s : State) (i : RegId) (r : Reg) : (s.setReg i r).arg = s.arg := rfl
@[simp] theorem State.setReg_cmd (s : State) (i : RegId) (r : Reg) : (s.setReg i r).cmd = s.cmd := rfl
@[simp] theorem State.setReg_pending (s : State) (i : RegId) (r : Reg) : (s.setReg i r).pending = s.pending := rfl
@[simp] theorem State.setReg_inputs (s : State) (i : RegId) (r : Reg) : (s.setReg i r).inputs = s.inputs := rfl
@[simp] theorem State.setReg_readData (s : State) (i : RegId) (r : Reg) : (s.setReg i r).readData = s.readData := rfl
@[simp] theorem State.setReg_draws (s : State) (i : RegId) (r : Reg) : (s.setReg i r).draws = s.draws := rfl

@[simp] theorem State.writeValue_cfg (s : State) (i : RegId) (v : Nat) : (s.writeValue i v).cfg = s.cfg := rfl
@[simp] theorem State.writeValue_regs (s : State) (i : RegId) (v : Nat) : (s.writeValue i v).regs = s.regs.set i.val (Reg.ofValue s.cfg.maxw (clen v) v) i.isLt := rfl
@[simp] theorem State.writeValue_flags (s : State) (i : RegId) (v : Nat) : (s.writeValue i v).flags = s.flags := rfl
@[simp] theorem State.writeValue_ie (s : State) (i : RegId) (v : Nat) : (s.writeValue i v).ie = s.ie := rfl
@[simp] theorem State.writeValue_done (s : State) (i : RegId) (v : Nat) : (s.writeValue i v).done = s.done := rfl
@[simp] theorem State.writeValue_herr (s : State) (i : RegId) (v : Nat) : (s.writeValue i v).herr = s.herr := rfl
@[simp] theorem State.writeValue_errcode (s : State) (i : RegId) (v : Nat) : (s.writeValue i v).errcode = s.errcode := rfl
@[simp] theorem State.writeValue_arg (s : State) (i : RegId) (v : Nat) : (s.writeValue i v).arg = s.arg := rfl
@[simp] theorem State.writeValue_cmd (s : State) (i : RegId) (v : Nat) : (s.writeValue i v).cmd = s.cmd := rfl
@[simp] theorem State.writeValue_pending (s : State) (i : RegId) (v : Nat) : (s.writeValue i v).pending = s.pending := rfl
@[simp] theorem State.writeValue_inputs (s : State) (i : RegId) (v : Nat) : (s.writeValue i v).inputs = s.inputs := rfl
@[simp] theorem State.writeValue_readData (s : State) (i : RegId) (v : Nat) : (s.writeValue i v).readData = s.readData := rfl
@[simp] theorem State.writeValue_draws (s : State) (i : RegId) (v : Nat) : (s.writeValue i v).draws = s.draws := rfl

@[simp] theorem State.writeFixed_cfg (s : State) (i : RegId) (n v : Nat) : (s.writeFixed i n v).cfg = s.cfg := rfl
@[simp] theorem State.writeFixed_regs (s : State) (i : RegId) (n v : Nat) : (s.writeFixed i n v).regs = s.regs.set i.val (Reg.ofValue s.cfg.maxw n v) i.isLt := rfl
@[simp] theorem State.writeFixed_flags (s : State) (i : RegId) (n v : Nat) : (s.writeFixed i n v).flags = s.flags := rfl
@[simp] theorem State.writeFixed_ie (s : State) (i : RegId) (n v : Nat) : (s.writeFixed i n v).ie = s.ie := rfl
@[simp] theorem State.writeFixed_done (s : State) (i : RegId) (n v : Nat) : (s.writeFixed i n v).done = s.done := rfl
@[simp] theorem State.writeFixed_herr (s : State) (i : RegId) (n v : Nat) : (s.writeFixed i n v).herr = s.herr := rfl
@[simp] theorem State.writeFixed_errcode (s : State) (i : RegId) (n v : Nat) : (s.writeFixed i n v).errcode = s.errcode := rfl
@[simp] theorem State.writeFixed_arg (s : State) (i : RegId) (n v : Nat) : (s.writeFixed i n v).arg = s.arg := rfl
@[simp] theorem State.writeFixed_cmd (s : State) (i : RegId) (n v : Nat) : (s.writeFixed i n v).cmd = s.cmd := rfl
@[simp] theorem State.writeFixed_pending (s : State) (i : RegId) (n v : Nat) : (s.writeFixed i n v).pending = s.pending := rfl
@[simp] theorem State.writeFixed_inputs (s : State) (i : RegId) (n v : Nat) : (s.writeFixed i n v).inputs = s.inputs := rfl
@[simp] theorem State.writeFixed_readData (s : State) (i : RegId) (n v : Nat) : (s.writeFixed i n v).readData = s.readData := rfl
@[simp] theorem State.writeFixed_draws (s : State) (i : RegId) (n v : Nat) : (s.writeFixed i n v).draws = s.draws := rfl

@[simp] theorem State.complete_cfg (s : State) (code : ErrCode) : (s.complete code).cfg = s.cfg := rfl
@[simp] theorem State.complete_regs (s : State) (code : ErrCode) : (s.complete code).regs = s.regs := rfl
@[simp] theorem State.complete_flags (s : State) (code : ErrCode) : (s.complete code).flags = s.flags := rfl
@[simp] theorem State.complete_ie (s : State) (code : ErrCode) : (s.complete code).ie = s.ie := rfl
@[simp] theorem State.complete_done (s : State) (code : ErrCode) : (s.complete code).done = true := rfl
@[simp] theorem State.complete_herr (s : State) (code : ErrCode) : (s.complete code).herr = s.herr := rfl
@[simp] theorem State.complete_errcode (s : State) (code : ErrCode) : (s.complete code).errcode = code := rfl
@[simp] theorem State.complete_arg (s : State) (code : ErrCode) : (s.complete code).arg = s.arg := rfl
@[simp] theorem State.complete_cmd (s : State) (code : ErrCode) : (s.complete code).cmd = s.cmd := rfl
@[simp] theorem State.complete_pending (s : State) (code : ErrCode) : (s.complete code).pending = none := rfl
@[simp] theorem State.complete_inputs (s : State) (code : ErrCode) : (s.complete code).inputs = s.inputs := rfl
@[simp] theorem State.complete_readData (s : State) (code : ErrCode) : (s.complete code).readData = s.readData := rfl
@[simp] theorem State.complete_draws (s : State) (code : ErrCode) : (s.complete code).draws = s.draws := rfl

@[simp] theorem State.accept_cfg (s : State) (cw : Word) : (s.accept cw).cfg = s.cfg := rfl
@[simp] theorem State.accept_regs (s : State) (cw : Word) : (s.accept cw).regs = s.regs := rfl
@[simp] theorem State.accept_flags (s : State) (cw : Word) : (s.accept cw).flags = s.flags := rfl
@[simp] theorem State.accept_ie (s : State) (cw : Word) : (s.accept cw).ie = s.ie := rfl
@[simp] theorem State.accept_done (s : State) (cw : Word) : (s.accept cw).done = false := rfl
@[simp] theorem State.accept_herr (s : State) (cw : Word) : (s.accept cw).herr = s.herr := rfl
@[simp] theorem State.accept_errcode (s : State) (cw : Word) : (s.accept cw).errcode = .ok := rfl
@[simp] theorem State.accept_arg (s : State) (cw : Word) : (s.accept cw).arg = s.arg := rfl
@[simp] theorem State.accept_cmd (s : State) (cw : Word) : (s.accept cw).cmd = cw := rfl
@[simp] theorem State.accept_pending (s : State) (cw : Word) : (s.accept cw).pending = some ⟨cw, s.arg⟩ := rfl
@[simp] theorem State.accept_inputs (s : State) (cw : Word) : (s.accept cw).inputs = s.inputs := rfl
@[simp] theorem State.accept_readData (s : State) (cw : Word) : (s.accept cw).readData = s.readData := rfl
@[simp] theorem State.accept_draws (s : State) (cw : Word) : (s.accept cw).draws = s.draws := rfl

@[simp] theorem State.resetDevice_cfg (s : State) : (s.resetDevice).cfg = s.cfg := rfl
@[simp] theorem State.resetDevice_regs (s : State) : (s.resetDevice).regs = Vector.replicate 16 (Reg.empty s.cfg.maxw) := rfl
@[simp] theorem State.resetDevice_flags (s : State) : (s.resetDevice).flags = Flags.clear := rfl
@[simp] theorem State.resetDevice_ie (s : State) : (s.resetDevice).ie = false := rfl
@[simp] theorem State.resetDevice_done (s : State) : (s.resetDevice).done = false := rfl
@[simp] theorem State.resetDevice_herr (s : State) : (s.resetDevice).herr = false := rfl
@[simp] theorem State.resetDevice_errcode (s : State) : (s.resetDevice).errcode = .ok := rfl
@[simp] theorem State.resetDevice_arg (s : State) : (s.resetDevice).arg = 0 := rfl
@[simp] theorem State.resetDevice_cmd (s : State) : (s.resetDevice).cmd = 0 := rfl
@[simp] theorem State.resetDevice_pending (s : State) : (s.resetDevice).pending = none := rfl
@[simp] theorem State.resetDevice_inputs (s : State) : (s.resetDevice).inputs = s.inputs := rfl
@[simp] theorem State.resetDevice_readData (s : State) : (s.resetDevice).readData = s.readData := rfl
@[simp] theorem State.resetDevice_draws (s : State) : (s.resetDevice).draws = s.draws := rfl

@[simp] theorem State.setHerr_cfg (s : State) : (s.setHerr).cfg = s.cfg := rfl
@[simp] theorem State.setHerr_regs (s : State) : (s.setHerr).regs = s.regs := rfl
@[simp] theorem State.setHerr_flags (s : State) : (s.setHerr).flags = s.flags := rfl
@[simp] theorem State.setHerr_ie (s : State) : (s.setHerr).ie = s.ie := rfl
@[simp] theorem State.setHerr_done (s : State) : (s.setHerr).done = s.done := rfl
@[simp] theorem State.setHerr_herr (s : State) : (s.setHerr).herr = true := rfl
@[simp] theorem State.setHerr_errcode (s : State) : (s.setHerr).errcode = s.errcode := rfl
@[simp] theorem State.setHerr_arg (s : State) : (s.setHerr).arg = s.arg := rfl
@[simp] theorem State.setHerr_cmd (s : State) : (s.setHerr).cmd = s.cmd := rfl
@[simp] theorem State.setHerr_pending (s : State) : (s.setHerr).pending = s.pending := rfl
@[simp] theorem State.setHerr_inputs (s : State) : (s.setHerr).inputs = s.inputs := rfl
@[simp] theorem State.setHerr_readData (s : State) : (s.setHerr).readData = s.readData := rfl
@[simp] theorem State.setHerr_draws (s : State) : (s.setHerr).draws = s.draws := rfl

@[simp] theorem State.writeT_cfg (s : State) (b : Bool) : (s.writeT b).cfg = s.cfg := rfl
@[simp] theorem State.writeT_regs (s : State) (b : Bool) : (s.writeT b).regs = s.regs := rfl
@[simp] theorem State.writeT_flags (s : State) (b : Bool) : (s.writeT b).flags = s.flags.setT b := rfl
@[simp] theorem State.writeT_ie (s : State) (b : Bool) : (s.writeT b).ie = s.ie := rfl
@[simp] theorem State.writeT_done (s : State) (b : Bool) : (s.writeT b).done = s.done := rfl
@[simp] theorem State.writeT_herr (s : State) (b : Bool) : (s.writeT b).herr = s.herr := rfl
@[simp] theorem State.writeT_errcode (s : State) (b : Bool) : (s.writeT b).errcode = s.errcode := rfl
@[simp] theorem State.writeT_arg (s : State) (b : Bool) : (s.writeT b).arg = s.arg := rfl
@[simp] theorem State.writeT_cmd (s : State) (b : Bool) : (s.writeT b).cmd = s.cmd := rfl
@[simp] theorem State.writeT_pending (s : State) (b : Bool) : (s.writeT b).pending = s.pending := rfl
@[simp] theorem State.writeT_inputs (s : State) (b : Bool) : (s.writeT b).inputs = s.inputs := rfl
@[simp] theorem State.writeT_readData (s : State) (b : Bool) : (s.writeT b).readData = s.readData := rfl
@[simp] theorem State.writeT_draws (s : State) (b : Bool) : (s.writeT b).draws = s.draws := rfl

@[simp] theorem State.writeCompare_cfg (s : State) (a b : Nat) : (s.writeCompare a b).cfg = s.cfg := rfl
@[simp] theorem State.writeCompare_regs (s : State) (a b : Nat) : (s.writeCompare a b).regs = s.regs := rfl
@[simp] theorem State.writeCompare_flags (s : State) (a b : Nat) : (s.writeCompare a b).flags = s.flags.compare a b := rfl
@[simp] theorem State.writeCompare_ie (s : State) (a b : Nat) : (s.writeCompare a b).ie = s.ie := rfl
@[simp] theorem State.writeCompare_done (s : State) (a b : Nat) : (s.writeCompare a b).done = s.done := rfl
@[simp] theorem State.writeCompare_herr (s : State) (a b : Nat) : (s.writeCompare a b).herr = s.herr := rfl
@[simp] theorem State.writeCompare_errcode (s : State) (a b : Nat) : (s.writeCompare a b).errcode = s.errcode := rfl
@[simp] theorem State.writeCompare_arg (s : State) (a b : Nat) : (s.writeCompare a b).arg = s.arg := rfl
@[simp] theorem State.writeCompare_cmd (s : State) (a b : Nat) : (s.writeCompare a b).cmd = s.cmd := rfl
@[simp] theorem State.writeCompare_pending (s : State) (a b : Nat) : (s.writeCompare a b).pending = s.pending := rfl
@[simp] theorem State.writeCompare_inputs (s : State) (a b : Nat) : (s.writeCompare a b).inputs = s.inputs := rfl
@[simp] theorem State.writeCompare_readData (s : State) (a b : Nat) : (s.writeCompare a b).readData = s.readData := rfl
@[simp] theorem State.writeCompare_draws (s : State) (a b : Nat) : (s.writeCompare a b).draws = s.draws := rfl

@[simp] theorem State.resetOf_cfg (c : Config) : (State.resetOf c).cfg = c := rfl
@[simp] theorem State.resetOf_regs (c : Config) : (State.resetOf c).regs = Vector.replicate 16 (Reg.empty c.maxw) := rfl
@[simp] theorem State.resetOf_flags (c : Config) : (State.resetOf c).flags = Flags.clear := rfl
@[simp] theorem State.resetOf_ie (c : Config) : (State.resetOf c).ie = false := rfl
@[simp] theorem State.resetOf_done (c : Config) : (State.resetOf c).done = false := rfl
@[simp] theorem State.resetOf_herr (c : Config) : (State.resetOf c).herr = false := rfl
@[simp] theorem State.resetOf_errcode (c : Config) : (State.resetOf c).errcode = .ok := rfl
@[simp] theorem State.resetOf_arg (c : Config) : (State.resetOf c).arg = 0 := rfl
@[simp] theorem State.resetOf_cmd (c : Config) : (State.resetOf c).cmd = 0 := rfl
@[simp] theorem State.resetOf_pending (c : Config) : (State.resetOf c).pending = none := rfl
@[simp] theorem State.resetOf_inputs (c : Config) : (State.resetOf c).inputs = [] := rfl
@[simp] theorem State.resetOf_readData (c : Config) : (State.resetOf c).readData = none := rfl
@[simp] theorem State.resetOf_draws (c : Config) : (State.resetOf c).draws = 0 := rfl

@[simp] theorem State.withInputs_cfg (s : State) (l : List Event) : (s.withInputs l).cfg = s.cfg := rfl
@[simp] theorem State.withInputs_regs (s : State) (l : List Event) : (s.withInputs l).regs = s.regs := rfl
@[simp] theorem State.withInputs_flags (s : State) (l : List Event) : (s.withInputs l).flags = s.flags := rfl
@[simp] theorem State.withInputs_ie (s : State) (l : List Event) : (s.withInputs l).ie = s.ie := rfl
@[simp] theorem State.withInputs_done (s : State) (l : List Event) : (s.withInputs l).done = s.done := rfl
@[simp] theorem State.withInputs_herr (s : State) (l : List Event) : (s.withInputs l).herr = s.herr := rfl
@[simp] theorem State.withInputs_errcode (s : State) (l : List Event) : (s.withInputs l).errcode = s.errcode := rfl
@[simp] theorem State.withInputs_arg (s : State) (l : List Event) : (s.withInputs l).arg = s.arg := rfl
@[simp] theorem State.withInputs_cmd (s : State) (l : List Event) : (s.withInputs l).cmd = s.cmd := rfl
@[simp] theorem State.withInputs_pending (s : State) (l : List Event) : (s.withInputs l).pending = s.pending := rfl
@[simp] theorem State.withInputs_inputs (s : State) (l : List Event) : (s.withInputs l).inputs = l := rfl
@[simp] theorem State.withInputs_readData (s : State) (l : List Event) : (s.withInputs l).readData = s.readData := rfl
@[simp] theorem State.withInputs_draws (s : State) (l : List Event) : (s.withInputs l).draws = s.draws := rfl
@[simp] theorem State.withInputs_reg (s : State) (l : List Event) (k : RegId) : (s.withInputs l).reg k = s.reg k := rfl
@[simp] theorem State.withInputs_x (s : State) (l : List Event) (k : RegId) : (s.withInputs l).x k = s.x k := rfl
@[simp] theorem State.withInputs_len (s : State) (l : List Event) (k : RegId) : (s.withInputs l).len k = s.len k := rfl
@[simp] theorem State.withInputs_word (s : State) (l : List Event) (k : RegId) (j : Nat) :
    (s.withInputs l).word k j = s.word k j := rfl
@[simp] theorem State.withInputs_busy (s : State) (l : List Event) : (s.withInputs l).busy = s.busy := rfl

end Sys2Proof.Machine
end

