-- ==== Sys2Proof/Laws/Words.lean ====
section
/-! SUPPORT. Values and words: `toWords` and `valueOf` are inverse on values that fit, and what `clen` says of a value. -/

namespace Sys2Proof

theorem bitlen_zero : bitlen 0 = 0 := rfl

/-- `bitlen v` is the least n with v < 2^n (R8). -/
theorem bitlen_le_iff (v n : Nat) : bitlen v ≤ n ↔ v < 2 ^ n := by
  unfold bitlen
  split
  · rename_i h; subst h; simp
  · rename_i h
    rw [Nat.succ_le_iff, Nat.log2_lt h]

theorem lt_two_pow_bitlen (v : Nat) : v < 2 ^ bitlen v := (bitlen_le_iff v _).1 (Nat.le_refl _)

theorem wordsForBits_le_iff (b n : Nat) (hn : 1 ≤ n) : wordsForBits b ≤ n ↔ b ≤ 32 * n := by
  unfold wordsForBits; omega

theorem one_le_clen (v : Nat) : 1 ≤ clen v := by unfold clen wordsForBits; omega

/-- R26: a value takes at most n words exactly when it is below 2^(32n), for n at least 1. -/
theorem clen_le_iff (v n : Nat) (hn : 1 ≤ n) : clen v ≤ n ↔ v < 2 ^ (32 * n) := by
  unfold clen; rw [wordsForBits_le_iff _ _ hn, bitlen_le_iff]

theorem lt_of_clen_le {v n : Nat} (h : clen v ≤ n) : v < 2 ^ (32 * n) :=
  (clen_le_iff v n (Nat.le_trans (one_le_clen v) h)).1 h

theorem clen_mono {u v : Nat} (h : u ≤ v) : clen u ≤ clen v :=
  (clen_le_iff u _ (one_le_clen v)).2 (Nat.lt_of_le_of_lt h (lt_of_clen_le (Nat.le_refl _)))

end Sys2Proof

namespace Sys2Proof.Machine

@[simp] theorem toWords_length (n v : Nat) : (toWords n v).length = n := by
  induction n generalizing v with
  | zero => rfl
  | succ n ih => simp [toWords, ih]

theorem toWords_getD (n v j : Nat) (h : j < n) : (toWords n v).getD j 0 = BitVec.ofNat 32 (v / 2 ^ (32 * j)) := by
  induction n generalizing v j with
  | zero => omega
  | succ n ih =>
    cases j with
    | zero => simp [toWords]
    | succ j =>
      have hj : j < n := by omega
      have h2 : v / 2 ^ 32 / 2 ^ (32 * j) = v / 2 ^ (32 * (j + 1)) := by
        rw [Nat.div_div_eq_div_mul, ← Nat.pow_add]; congr 2; omega
      have := ih (v / 2 ^ 32) j hj
      simp only [toWords, List.getD_cons_succ]
      rw [this, h2]

/-- R9, R25: the value of the lowest n words of v. -/
theorem valueOf_toWords_mod (n v : Nat) : valueOf (toWords n v) = v % 2 ^ (32 * n) := by
  induction n generalizing v with
  | zero => simp [toWords, valueOf, Nat.mod_one]
  | succ n ih =>
    simp only [toWords, valueOf, ih, BitVec.toNat_ofNat]
    have : 2 ^ (32 * (n + 1)) = 2 ^ 32 * 2 ^ (32 * n) := by rw [← Nat.pow_add]; congr 1; omega
    rw [this, Nat.mod_mul]

theorem valueOf_toWords {n v : Nat} (h : v < 2 ^ (32 * n)) : valueOf (toWords n v) = v := by
  rw [valueOf_toWords_mod, Nat.mod_eq_of_lt h]

theorem valueOf_lt (ws : List Word) : valueOf ws < 2 ^ (32 * ws.length) := by
  induction ws with
  | nil => simp [valueOf]
  | cons w ws ih =>
    have hw := w.isLt
    have : 2 ^ (32 * (ws.length + 1)) = 2 ^ 32 * 2 ^ (32 * ws.length) := by
      rw [← Nat.pow_add]; congr 1; omega
    simp only [valueOf, List.length_cons, this]
    have h2 : valueOf ws + 1 ≤ 2 ^ (32 * ws.length) := ih
    have h3 := Nat.mul_le_mul_left (2 ^ 32) h2
    omega

theorem valueOf_replicate_zero (n : Nat) : valueOf (List.replicate n 0) = 0 := by
  induction n with
  | zero => rfl
  | succ n ih => simpa [List.replicate_succ, valueOf] using ih

theorem valueOf_append (a b : List Word) : valueOf (a ++ b) = valueOf a + 2 ^ (32 * a.length) * valueOf b := by
  induction a with
  | nil => simp [valueOf]
  | cons w ws ih =>
    have : 2 ^ (32 * (ws.length + 1)) = 2 ^ 32 * 2 ^ (32 * ws.length) := by
      rw [← Nat.pow_add]; congr 1; omega
    simp only [List.cons_append, valueOf, ih, List.length_cons, this]
    ring

/-- Truncation to n words is the residue mod 2^(32n) (R55). -/
theorem valueOf_take (n : Nat) (ws : List Word) : valueOf (ws.take n) = valueOf ws % 2 ^ (32 * n) := by
  induction n generalizing ws with
  | zero => simp [valueOf, Nat.mod_one]
  | succ n ih =>
    cases ws with
    | nil => simp [valueOf]
    | cons w ws =>
      have : 2 ^ (32 * (n + 1)) = 2 ^ 32 * 2 ^ (32 * n) := by rw [← Nat.pow_add]; congr 1; omega
      simp only [List.take_succ_cons, valueOf, ih, this]
      rw [Nat.mod_mul]
      have hw : (w.toNat + 2 ^ 32 * valueOf ws) % 2 ^ 32 = w.toNat := by
        rw [Nat.add_mul_mod_self_left, Nat.mod_eq_of_lt w.isLt]
      have hd : (w.toNat + 2 ^ 32 * valueOf ws) / 2 ^ 32 = valueOf ws := by
        rw [Nat.add_mul_div_left _ _ (by norm_num), Nat.div_eq_of_lt w.isLt, Nat.zero_add]
      rw [hw, hd]

end Sys2Proof.Machine
end

