-- ==== Sys2Proof/Laws/Hash.lean ====
section
/-! SUPPORT. The hash engine's lists: the words a number splits into, the lengths of the constant tables and the schedule, and
the chaining of blocks as one step a block. -/

namespace Sys2Proof.Machine

@[simp] theorem splitWords_length (w n v : Nat) : (splitWords w n v).length = n := by simp [splitWords]

/-- R175, R180, R182: word t of a number split most significant first. -/
theorem splitWords_getD (w : Nat) {n : Nat} (v : Nat) {t : Nat} (h : t < n) :
    (splitWords w n v).getD t 0 = BitVec.ofNat w (v / 2 ^ (w * (n - 1 - t))) := by
  simp [splitWords, List.getD_eq_getElem?_getD, h]

@[simp] theorem k256_length : k256.length = 64 := rfl
@[simp] theorem k512_length : k512.length = 80 := rfl

/-- R175: extending a window of sixteen words by n gives n more. -/
theorem extendSchedule_length {w : Nat} (p : DigestParams w) (n : Nat) (win : List (BitVec w)) (h : win.length = 16) :
    (extendSchedule p n win).length = n + 16 := by
  induction n generalizing win with
  | zero => simpa [extendSchedule] using h
  | succ n ih =>
    have : (win.tail ++ [nextWord p win]).length = 16 := by simp [h]
    simp only [extendSchedule, List.length_cons, ih _ this]

/-- R175: one schedule word a round. -/
theorem schedule_length {w : Nat} (p : DigestParams w) (blk : Nat) (h : 16 ≤ p.k.length) :
    (schedule p blk).length = p.k.length := by
  unfold schedule
  rw [extendSchedule_length p _ _ (splitWords_length w 16 blk)]
  omega

/-- R174: as many blocks as N. -/
@[simp] theorem blocksOf_length {w : Nat} (p : DigestParams w) (m n : Nat) : (blocksOf p m n).length = blockCount p n := by
  simp [blocksOf]

/-- R174: block i of the list, i = 1 .. N. -/
theorem blocksOf_getD {w : Nat} (p : DigestParams w) (m n : Nat) {i : Nat} (h1 : 1 ≤ i) (hN : i ≤ blockCount p n) :
    (blocksOf p m n).getD (i - 1) 0 = blockAt p m n i := by
  have h : i - 1 < blockCount p n := by omega
  simp [blocksOf, List.getD_eq_getElem?_getD, h, Nat.sub_add_cancel h1]

/-- R174: a block is a BS-bit number. -/
theorem blockAt_lt {w : Nat} (p : DigestParams w) (m n i : Nat) : blockAt p m n i < 2 ^ p.blockBits :=
  Nat.mod_lt _ (Nat.two_pow_pos _)

end Sys2Proof.Machine
end

