-- ==== Sys2Proof/Laws/PerInstr.lean ====
section
/-! SUPPORT. The family EncodingRow, one lemma per constructor: a command's word matches its own row of the opcode map (R87),
so every unused field of it is 0 (R84). -/

namespace Sys2Proof.Laws.EncodingRow

/-- The row of the opcode map that a command belongs to: `match` and `mask` of R87. -/
def rowOf : Instr → Word × Word
  | .mov _ _ => (0x00000001, 0xFFF0F0FF)
  | .ldi _ => (0x00000002, 0xFFFFF0FF)
  | .add _ _ _ => (0x00000010, 0xFF00F0FF)
  | .sub _ _ _ => (0x00000011, 0xFF00F0FF)
  | .mul _ _ _ => (0x00000012, 0xFF00F0FF)
  | .divq _ _ _ => (0x00000013, 0xFF00F0FF)
  | .mod _ _ _ => (0x00000014, 0xFF00F0FF)
  | .divrem _ _ _ _ => (0x00000015, 0xFF0000FF)
  | .addm _ _ _ _ => (0x00000020, 0xF000F0FF)
  | .subm _ _ _ _ => (0x00000021, 0xF000F0FF)
  | .mulm _ _ _ _ => (0x00000022, 0xF000F0FF)
  | .divm _ _ _ _ => (0x00000023, 0xF000F0FF)
  | .expm _ _ _ _ => (0x00000024, 0xF000F0FF)
  | .shift _ _ => (0x00000030, 0xFFF0F0FF)
  | .testbit _ => (0x00000031, 0xFFF0FFFF)
  | .setbit _ => (0x00000032, 0xFFFFF0FF)
  | .cmp _ _ => (0x00000033, 0xFF00FFFF)
  | .isz _ => (0x00000034, 0xFFF0FFFF)
  | .digest256 _ _ => (0x00000040, 0xFFF0F0FF)
  | .digest512 _ _ => (0x00000041, 0xFFF0F0FF)
  | .gcd _ _ _ => (0x00000050, 0xFF00F0FF)
  | .eea _ _ _ _ _ _ => (0x00000051, 0x000000FF)
  | .minv _ _ _ => (0x00000052, 0xF0F0F0FF)
  | .isprime _ => (0x00000053, 0xFFF0FFFF)

/-- The word of `i` under its row's mask is its row's match. -/
def Statement (i : Instr) : Prop := encode i &&& (rowOf i).2 = (rowOf i).1

/-- A packed word under a mask that is itself a packed word. -/
theorem masked (o : BitVec 8) (r m : Fields) (mask pat : Word) (hm : mask = packWord 0xFF m)
    (hp : packWord (o &&& 0xFF) ⟨maskReg r.d m.d, maskReg r.e m.e, maskReg r.a m.a, maskReg r.b m.b,
      maskReg r.c m.c, maskReg r.f m.f⟩ = pat) : packWord o r &&& mask = pat := by
  rw [hm, packWord_and, hp]

theorem mov (d a : RegId) : Statement (.mov d a) :=
  masked _ _ ⟨0, 15, 0, 15, 15, 15⟩ _ _ rfl (by simp; rfl)

theorem ldi (d : RegId) : Statement (.ldi d) :=
  masked _ _ ⟨0, 15, 15, 15, 15, 15⟩ _ _ rfl (by simp; rfl)

theorem add (d a b : RegId) : Statement (.add d a b) :=
  masked _ _ ⟨0, 15, 0, 0, 15, 15⟩ _ _ rfl (by simp; rfl)

theorem sub (d a b : RegId) : Statement (.sub d a b) :=
  masked _ _ ⟨0, 15, 0, 0, 15, 15⟩ _ _ rfl (by simp; rfl)

theorem mul (d a b : RegId) : Statement (.mul d a b) :=
  masked _ _ ⟨0, 15, 0, 0, 15, 15⟩ _ _ rfl (by simp; rfl)

theorem divq (d a b : RegId) : Statement (.divq d a b) :=
  masked _ _ ⟨0, 15, 0, 0, 15, 15⟩ _ _ rfl (by simp; rfl)

theorem mod (d a b : RegId) : Statement (.mod d a b) :=
  masked _ _ ⟨0, 15, 0, 0, 15, 15⟩ _ _ rfl (by simp; rfl)

theorem divrem (d e a b : RegId) : Statement (.divrem d e a b) :=
  masked _ _ ⟨0, 0, 0, 0, 15, 15⟩ _ _ rfl (by simp; rfl)

theorem addm (d a b c : RegId) : Statement (.addm d a b c) :=
  masked _ _ ⟨0, 15, 0, 0, 0, 15⟩ _ _ rfl (by simp; rfl)

theorem subm (d a b c : RegId) : Statement (.subm d a b c) :=
  masked _ _ ⟨0, 15, 0, 0, 0, 15⟩ _ _ rfl (by simp; rfl)

theorem mulm (d a b c : RegId) : Statement (.mulm d a b c) :=
  masked _ _ ⟨0, 15, 0, 0, 0, 15⟩ _ _ rfl (by simp; rfl)

theorem divm (d a b c : RegId) : Statement (.divm d a b c) :=
  masked _ _ ⟨0, 15, 0, 0, 0, 15⟩ _ _ rfl (by simp; rfl)

theorem expm (d a b c : RegId) : Statement (.expm d a b c) :=
  masked _ _ ⟨0, 15, 0, 0, 0, 15⟩ _ _ rfl (by simp; rfl)

theorem shift (d a : RegId) : Statement (.shift d a) :=
  masked _ _ ⟨0, 15, 0, 15, 15, 15⟩ _ _ rfl (by simp; rfl)

theorem testbit (a : RegId) : Statement (.testbit a) :=
  masked _ _ ⟨15, 15, 0, 15, 15, 15⟩ _ _ rfl (by simp; rfl)

theorem setbit (d : RegId) : Statement (.setbit d) :=
  masked _ _ ⟨0, 15, 15, 15, 15, 15⟩ _ _ rfl (by simp; rfl)

theorem cmp (a b : RegId) : Statement (.cmp a b) :=
  masked _ _ ⟨15, 15, 0, 0, 15, 15⟩ _ _ rfl (by simp; rfl)

theorem isz (a : RegId) : Statement (.isz a) :=
  masked _ _ ⟨15, 15, 0, 15, 15, 15⟩ _ _ rfl (by simp; rfl)

theorem digest256 (d a : RegId) : Statement (.digest256 d a) :=
  masked _ _ ⟨0, 15, 0, 15, 15, 15⟩ _ _ rfl (by simp; rfl)

theorem digest512 (d a : RegId) : Statement (.digest512 d a) :=
  masked _ _ ⟨0, 15, 0, 15, 15, 15⟩ _ _ rfl (by simp; rfl)

theorem gcd (d a b : RegId) : Statement (.gcd d a b) :=
  masked _ _ ⟨0, 15, 0, 0, 15, 15⟩ _ _ rfl (by simp; rfl)

theorem eea (d e f a b c : RegId) : Statement (.eea d e f a b c) :=
  masked _ _ ⟨0, 0, 0, 0, 0, 0⟩ _ _ rfl (by simp; rfl)

theorem minv (d a c : RegId) : Statement (.minv d a c) :=
  masked _ _ ⟨0, 15, 0, 15, 0, 15⟩ _ _ rfl (by simp; rfl)

theorem isprime (a : RegId) : Statement (.isprime a) :=
  masked _ _ ⟨15, 15, 0, 15, 15, 15⟩ _ _ rfl (by simp; rfl)

end Sys2Proof.Laws.EncodingRow
end

