-- ==== Sys2Proof/Laws/Regs.lean ====
section
/-! SUPPORT. The register operations: what one register reads as after another is written, that every register write keeps
R21 and R22, and the value each write leaves. -/

namespace Sys2Proof.Machine

@[simp] theorem State.reg_setReg (s : State) (i k : RegId) (r : Reg) :
    (s.setReg i r).reg k = if k = i then r else s.reg k := by
  unfold State.reg State.setReg
  simp only [Vector.get_eq_getElem, Vector.getElem_set, Fin.ext_iff, eq_comm]

@[simp] theorem State.reg_writeValue (s : State) (i k : RegId) (v : Nat) :
    (s.writeValue i v).reg k = if k = i then Reg.ofValue s.cfg.maxw (clen v) v else s.reg k := by
  unfold State.writeValue; simp

@[simp] theorem State.reg_writeFixed (s : State) (i k : RegId) (n v : Nat) :
    (s.writeFixed i n v).reg k = if k = i then Reg.ofValue s.cfg.maxw n v else s.reg k := by
  unfold State.writeFixed; simp

@[simp] theorem State.reg_complete (s : State) (c : ErrCode) (k : RegId) : (s.complete c).reg k = s.reg k := rfl
@[simp] theorem State.reg_accept (s : State) (w : Word) (k : RegId) : (s.accept w).reg k = s.reg k := rfl
@[simp] theorem State.reg_setHerr (s : State) (k : RegId) : s.setHerr.reg k = s.reg k := rfl
@[simp] theorem State.reg_writeT (s : State) (b : Bool) (k : RegId) : (s.writeT b).reg k = s.reg k := rfl
@[simp] theorem State.reg_writeCompare (s : State) (a b : Nat) (k : RegId) :
    (s.writeCompare a b).reg k = s.reg k := rfl

@[simp] theorem State.reg_resetOf (c : Config) (k : RegId) : (State.resetOf c).reg k = Reg.empty c.maxw := by
  unfold State.reg; simp [Vector.get_eq_getElem]

@[simp] theorem State.reg_resetDevice (s : State) (k : RegId) : s.resetDevice.reg k = Reg.empty s.cfg.maxw := by
  unfold State.reg; simp [Vector.get_eq_getElem]

@[simp] theorem State.x_complete (s : State) (c : ErrCode) (k : RegId) : (s.complete c).x k = s.x k := rfl
@[simp] theorem State.len_complete (s : State) (c : ErrCode) (k : RegId) : (s.complete c).len k = s.len k := rfl
@[simp] theorem State.word_complete (s : State) (c : ErrCode) (k : RegId) (j : Nat) :
    (s.complete c).word k j = s.word k j := rfl

/-- Two states with the same registers under `reg` have the same register file. -/
theorem State.regs_ext {s t : State} (h : ∀ r, t.reg r = s.reg r) : t.regs = s.regs := by
  apply Vector.ext
  intro i hi
  have := h ⟨i, hi⟩
  simpa [State.reg, Vector.get_eq_getElem] using this

@[simp] theorem Reg.len_ofValue (m n v : Nat) : (Reg.ofValue m n v).len = n := rfl

theorem Reg.word_ofValue {m n v j : Nat} (h : j < m) : (Reg.ofValue m n v).word j = BitVec.ofNat 32 (v / 2 ^ (32 * j)) :=
  toWords_getD m v j h

theorem Reg.value_ofValue {m n v : Nat} (h : v < 2 ^ (32 * m)) : (Reg.ofValue m n v).value = v :=
  valueOf_toWords h

/-- R22, R25: a value written with a LEN that holds it leaves a register that meets R21 and R22. -/
theorem Reg.wf_ofValue {m n v : Nat} (hn : n ≤ m) (h : v < 2 ^ (32 * n)) : (Reg.ofValue m n v).wf m := by
  refine ⟨hn, toWords_length m v, fun j hj hle => ?_⟩
  simp only [Reg.len_ofValue] at hle
  rw [Reg.word_ofValue hj, Nat.div_eq_of_lt]
  · rfl
  · exact Nat.lt_of_lt_of_le h (Nat.pow_le_pow_right (by norm_num) (by omega))

theorem Reg.wf_ofValue_clen {m v : Nat} (h : clen v ≤ m) : (Reg.ofValue m (clen v) v).wf m :=
  Reg.wf_ofValue h (lt_of_clen_le (Nat.le_refl _))

/-- R42: the empty register meets R21 and R22. -/
theorem Reg.wf_empty (m : Nat) : (Reg.empty m).wf m := by
  refine ⟨Nat.zero_le _, by simp [Reg.empty], fun j hj _ => ?_⟩
  simp [Reg.empty, Reg.word, List.getD_eq_getElem?_getD, hj]

@[simp] theorem Reg.value_empty (m : Nat) : (Reg.empty m).value = 0 := valueOf_replicate_zero m

/-- R22 as an equation of the storage: the words of LEN, then zeros. -/
theorem Reg.wf.storage {m : Nat} {r : Reg} (h : r.wf m) : r.w = r.w.take r.len ++ List.replicate (m - r.len) 0 := by
  obtain ⟨hl, hw, hz⟩ := h
  apply List.ext_getElem
  · simp [hw]; omega
  · intro j h1 h2
    rw [List.getElem_append]
    split
    · simp
    · rename_i hj
      have hj' : r.len ≤ j := by simp at hj; omega
      have := hz j (by omega) hj'
      rw [List.getElem_replicate]
      simpa [Reg.word, List.getD_eq_getElem?_getD, h1] using this

/-- R23: the value of a register that meets R22 is the value of its LEN words. -/
theorem Reg.wf.value_take {m : Nat} {r : Reg} (h : r.wf m) : r.value = valueOf (r.w.take r.len) := by
  have hs := h.storage
  unfold Reg.value
  conv_lhs => rw [hs]
  rw [valueOf_append, valueOf_replicate_zero, Nat.mul_zero, Nat.add_zero]

/-- R23: the value is below 2^(32 LEN). -/
theorem Reg.wf.value_lt_len {m : Nat} {r : Reg} (h : r.wf m) : r.value < 2 ^ (32 * r.len) := by
  rw [h.value_take]
  have := valueOf_lt (r.w.take r.len)
  rw [List.length_take, h.2.1, Nat.min_eq_left h.1] at this
  exact this

/-- R26: every register value is representable. -/
theorem Reg.wf.value_lt {m : Nat} {r : Reg} (h : r.wf m) : r.value < 2 ^ (32 * m) := by
  have := valueOf_lt r.w
  rwa [h.2.1] at this

/-- R26, for a value no larger than a register's. -/
theorem Reg.wf.clen_le {m v : Nat} {r : Reg} (h : r.wf m) (hm : 1 ≤ m) (hv : v ≤ r.value) : clen v ≤ m :=
  (clen_le_iff v m hm).2 (Nat.lt_of_le_of_lt hv h.value_lt)

/-- R55: the LEN write keeps R21 and R22. -/
theorem Reg.wf_setLen {m n : Nat} {r : Reg} (h : r.wf m) (hn : n ≤ m) : (r.setLen n).wf m := by
  obtain ⟨hl, hw, hz⟩ := h
  refine ⟨hn, by simp [Reg.setLen, hw]; omega, fun j hj hle => ?_⟩
  have hle' : n ≤ j := hle
  have hlen : (r.w.take n).length = n := by simp [hw]; omega
  simp only [Reg.setLen, Reg.word, List.getD_eq_getElem?_getD]
  rw [List.getElem?_append_right (by omega), List.getElem?_replicate]
  rw [if_pos (by omega), Option.getD_some]

/-- R55: the LEN write truncates the value to its residue mod 2^(32n), and leaves it when LEN rises. -/
theorem Reg.value_setLen {m n : Nat} {r : Reg} (_h : r.wf m) (_hn : n ≤ m) :
    (r.setLen n).value = r.value % 2 ^ (32 * n) := by
  unfold Reg.value Reg.setLen
  rw [valueOf_append, valueOf_replicate_zero, Nat.mul_zero, Nat.add_zero, valueOf_take]

/-- R56, R152: writing a word below LEN keeps R21 and R22. -/
theorem Reg.wf_setWord {m j : Nat} {r : Reg} (h : r.wf m) (hj : j < r.len) (v : Word) : (r.setWord j v).wf m := by
  obtain ⟨hl, hw, hz⟩ := h
  refine ⟨hl, by simp [Reg.setWord, hw], fun k hk hle => ?_⟩
  have hle' : r.len ≤ k := hle
  have hne : j ≠ k := by omega
  have := hz k hk hle'
  simpa [Reg.setWord, Reg.word, List.getD_eq_getElem?_getD, List.getElem?_set, hne] using this

theorem Reg.word_setWord {m j : Nat} {r : Reg} (h : r.wf m) (hj : j < m) (v : Word) (k : Nat) :
    (r.setWord j v).word k = if k = j then v else r.word k := by
  obtain ⟨hl, hw, hz⟩ := h
  unfold Reg.setWord Reg.word
  simp only [List.getD_eq_getElem?_getD, List.getElem?_set]
  by_cases hk : k = j
  · subst hk; simp [hw, hj]
  · simp [hk, Ne.symm hk]

/-- A register write that keeps R21 and R22 of its register keeps them of all. -/
theorem State.regsWf_setReg {s : State} (h : s.regsWf) (i : RegId) {r : Reg} (hr : r.wf s.cfg.maxw) :
    (s.setReg i r).regsWf := by
  intro k
  simp only [State.reg_setReg, State.setReg_cfg]
  split
  · exact hr
  · exact h k

/-- R25: the canonical write of a value that fits keeps R21 and R22. -/
theorem State.regsWf_writeValue {s : State} (h : s.regsWf) (i : RegId) {v : Nat} (hv : clen v ≤ s.cfg.maxw) :
    (s.writeValue i v).regsWf :=
  State.regsWf_setReg h i (Reg.wf_ofValue_clen hv)

theorem State.regsWf_resetOf (c : Config) : (State.resetOf c).regsWf := by
  intro k
  rw [State.reg_resetOf]
  exact Reg.wf_empty _

/-- The canonical write, read back: LEN, value and words (R25). -/
theorem State.holds_writeValue {s t : State} {d : RegId} {v : Nat} (hv : clen v ≤ s.cfg.maxw)
    (hreg : t.reg d = Reg.ofValue s.cfg.maxw (clen v) v) (hcfg : t.cfg = s.cfg) : Holds t d v := by
  refine ⟨?_, ?_, fun j hj => ?_⟩
  · simp [State.len, hreg]
  · simp only [State.x, hreg]; exact Reg.value_ofValue (lt_of_clen_le hv)
  · rw [hcfg] at hj
    simp only [State.word, hreg]; exact Reg.word_ofValue hj

/-- What `complete` does to the state outside registers and FLAGS is what every completion does (R224). -/
theorem completed_complete {s u : State} {c : ErrCode} (h : u.cfg = s.cfg ∧ u.ie = s.ie ∧ u.herr = s.herr ∧ u.arg = s.arg ∧
    u.cmd = s.cmd ∧ u.inputs = s.inputs ∧ u.readData = s.readData ∧ u.draws = s.draws) : Completed c s (u.complete c) :=
  ⟨rfl, rfl, rfl, h.1, h.2.1, h.2.2.1, h.2.2.2.1, h.2.2.2.2.1, h.2.2.2.2.2.1, h.2.2.2.2.2.2.1, h.2.2.2.2.2.2.2⟩

/-- The write-or-E_CAP operation of ADD, MUL and SHIFT says everything it can do (R26). -/
theorem writeOrCap_cases (s : State) (d : RegId) (v : Nat) :
    (clen v ≤ s.cfg.maxw ∧ writeOrCap s d v = .next ((s.writeValue d v).complete .ok)) ∨
      (s.cfg.maxw < clen v ∧ writeOrCap s d v = .next (s.complete .cap)) := by
  unfold writeOrCap State.fits succeed raise
  by_cases h : clen v ≤ s.cfg.maxw
  · exact .inl ⟨h, by simp [h]⟩
  · exact .inr ⟨by omega, by simp [h]⟩

end Sys2Proof.Machine
end

