-- ==== Sys2Proof/Laws/Window.lean ====
section
/-! SUPPORT. One step on a host access: which entry of the window an offset is, and what a step on `memRead` or `memWrite` is;
and the engine's move as a step. -/

namespace Sys2Proof.Machine

/-- R50, R51 as a proposition. -/
theorem admitted_iff (c : Config) (a : Access) : admitted c a = true ↔
    a.mode = .single ∧ a.width = 4 ∧ c.base ≤ a.addr ∧ a.addr < c.base + 0x20000 ∧ (a.addr - c.base) % 4 = 0 := by
  simp only [admitted, Bool.and_eq_true, decide_eq_true_eq, beq_iff_eq, and_assoc]
  rfl

/-- A step on an admitted write is `hostWrite` of the entry at its offset. -/
theorem step_memWrite (s : State) (rest : List Event) {off : Nat} (v : Word) (h : off < 0x20000) (h4 : off % 4 = 0) :
    step { s with inputs := memWrite s.cfg off v :: rest } = .next (hostWrite (s.withInputs rest) (winReg off) v) := by
  show hostAccess _ (s.withInputs rest) = _
  have ha : admitted s.cfg ⟨s.cfg.base + off, 4, .single, .write v⟩ = true := by
    rw [admitted_iff]; simp; omega
  unfold hostAccess
  simp only [State.withInputs_cfg, ha, if_true, Nat.add_sub_cancel_left]

/-- A step on an admitted read is `hostRead` of the entry at its offset. -/
theorem step_memRead (s : State) (rest : List Event) {off : Nat} (h : off < 0x20000) (h4 : off % 4 = 0) :
    step { s with inputs := memRead s.cfg off :: rest } = .next (hostRead (s.withInputs rest) (winReg off)) := by
  show hostAccess _ (s.withInputs rest) = _
  have ha : admitted s.cfg ⟨s.cfg.base + off, 4, .single, .read⟩ = true := by
    rw [admitted_iff]; simp; omega
  unfold hostAccess
  simp only [State.withInputs_cfg, ha, if_true, Nat.add_sub_cancel_left]

/-- R53: the offset of REGLEN[r]. -/
theorem winReg_reglen (r : RegId) : winReg (0x100 + 4 * r.val) = .reglen r := by revert r; decide

/-- R53: the offset of REGWORD[r][j]. -/
theorem winReg_regword (r : RegId) {j : Nat} (h : j < 1024) : winReg (0x10000 + 0x1000 * r.val + 4 * j) = .regword r j := by
  have hr := r.isLt
  unfold winReg
  iterate 6 rw [if_neg (by omega)]
  rw [if_neg (by omega), if_pos (by omega)]
  congr 1
  · apply Fin.ext; simp [Fin.ofNat]; omega
  · omega

/-- R53, R54: the reserved offsets. -/
theorem winReg_reserved {off : Nat} (h : (0x018 ≤ off ∧ off ≤ 0x0FC) ∨ (0x140 ≤ off ∧ off ≤ 0xFFFC)) :
    winReg off = .reserved := by
  unfold winReg
  iterate 6 rw [if_neg (by omega)]
  rw [if_neg (by omega), if_neg (by omega)]

/-- A step at the engine's move is the engine's turn. -/
theorem step_engineMoves {s u : State} (h : EngineMoves s u) : step s = engineTurn u := by
  rcases h with ⟨h, rfl⟩ | ⟨rest, h, rfl⟩
  · unfold step; rw [h]
  · unfold step; rw [h]; rfl

/-- Taking the turn from the input order leaves PENDING. -/
theorem engineMoves_pending {s u : State} (h : EngineMoves s u) : u.pending = s.pending := by
  rcases h with ⟨-, rfl⟩ | ⟨rest, -, rfl⟩ <;> rfl

/-- R37: data without reserved bits is its own LEN field. -/
theorem reglenField_ofNat {n : Nat} (h : n < 2 ^ 11) : reglenField (BitVec.ofNat 32 n) = n := by
  unfold reglenField
  rw [BitVec.toNat_ofNat, Nat.mod_eq_of_lt (by omega : n < 2 ^ 32), Nat.mod_eq_of_lt h]

/-- A run whose first step answers a next state goes on from there. -/
theorem run_succ {s t : State} (h : step s = .next t) (k : Nat) :
    Sys2Proof.core.run (k + 1) s = Sys2Proof.core.run k t := by
  have e : Sys2Proof.core.step s = .next t := h
  simp only [Host.Core.run, e]

/-- R59: a run over any number of STATUS reads changes nothing but the data read. -/
theorem run_statusReads (k : Nat) (s : State) (rest : List Event) : ∃ x,
    Sys2Proof.core.run k { s with inputs := List.replicate k (memRead s.cfg 0x008) ++ rest } =
      .next { s with inputs := rest, readData := x } := by
  induction k generalizing s with
  | zero => exact ⟨s.readData, rfl⟩
  | succ k ih =>
    obtain ⟨x, hx⟩ := ih { s with readData := some (statusWord s) }
    have h1 := step_memRead s (List.replicate k (memRead s.cfg 0x008) ++ rest) (off := 0x008) (by omega) (by omega)
    have h2 : hostRead (s.withInputs (List.replicate k (memRead s.cfg 0x008) ++ rest)) (winReg 0x008) =
        { s with readData := some (statusWord s), inputs := List.replicate k (memRead s.cfg 0x008) ++ rest } := by
      show (if _ && false then _ else _) = _
      rw [Bool.and_false]; rfl
    refine ⟨x, ?_⟩
    rw [List.replicate_succ, List.cons_append]
    exact (run_succ (h1.trans (congrArg _ h2)) k).trans hx

end Sys2Proof.Machine
end

