-- ==== Sys2Proof/Tests/Slice0.lean ====
section
/-! SUPPORT. The model's own tests. Words are written out from 30_encoding.md (R81, R87, R91), results from
95_test_vectors.md (the vector is named) or worked out by hand from the rule named. The second half gives, for every
statement with hypotheses, concrete data that meet them, at the boundary of each clause. -/

namespace Sys2Proof.Tests

open Sys2Proof Sys2Proof.Machine

-- One thread: many short kernel checks at once exhaust the stacks Lean may create.
set_option Elab.async false

/-! ### Decoding and encoding: one word per constructor -/

/-- OPC 0x01, RD = 2 at bits 11:8, RA = 1 at bits 19:16 (V-MOVE-1). -/
theorem test_decode_mov : decode 0b0000_0000_0000_0001_0000_0010_0000_0001 = .ok (.mov 2 1) := by decide
/-- OPC 0x02, RD = 3 (V-MOVE-4). -/
theorem test_decode_ldi : decode 0b0000_0000_0000_0000_0000_0011_0000_0010 = .ok (.ldi 3) := by decide
/-- `ADD B1, B2, B3` of R91: RB 3, RA 2, RD 1, OPC 0x10. -/
theorem test_decode_add : decode 0b0000_0000_0011_0010_0000_0001_0001_0000 = .ok (.add 1 2 3) := by decide
theorem test_decode_sub : decode 0b0000_0000_1111_1110_0000_1101_0001_0001 = .ok (.sub 13 14 15) := by decide
theorem test_decode_mul : decode 0b0000_0000_0010_0001_0000_0011_0001_0010 = .ok (.mul 3 1 2) := by decide
theorem test_decode_divq : decode 0b0000_0000_0010_0011_0000_0100_0001_0011 = .ok (.divq 4 3 2) := by decide
theorem test_decode_mod : decode 0b0000_0000_0010_0001_0000_0011_0001_0100 = .ok (.mod 3 1 2) := by decide
/-- `DIVREM B4, B5, B2, B3` of R91: RE is bits 15:12. -/
theorem test_decode_divrem : decode 0b0000_0000_0011_0010_0101_0100_0001_0101 = .ok (.divrem 4 5 2 3) := by decide
theorem test_decode_addm : decode 0b0000_0011_0010_0001_0000_0100_0010_0000 = .ok (.addm 4 1 2 3) := by decide
theorem test_decode_subm : decode 0b0000_0011_0010_0001_0000_0100_0010_0001 = .ok (.subm 4 1 2 3) := by decide
theorem test_decode_mulm : decode 0b0000_0011_0010_0001_0000_0100_0010_0010 = .ok (.mulm 4 1 2 3) := by decide
theorem test_decode_divm : decode 0b0000_0011_0010_0001_0000_0100_0010_0011 = .ok (.divm 4 1 2 3) := by decide
/-- `EXPM B4, B1, B2, B3` of R91: the modulus is RC, bits 27:24. -/
theorem test_decode_expm : decode 0b0000_0011_0010_0001_0000_0100_0010_0100 = .ok (.expm 4 1 2 3) := by decide
theorem test_decode_shift : decode 0b0000_0000_0000_0001_0000_0010_0011_0000 = .ok (.shift 2 1) := by decide
theorem test_decode_testbit : decode 0b0000_0000_0000_0001_0000_0000_0011_0001 = .ok (.testbit 1) := by decide
theorem test_decode_setbit : decode 0b0000_0000_0000_0000_0000_0001_0011_0010 = .ok (.setbit 1) := by decide
theorem test_decode_cmp : decode 0b0000_0000_0010_0001_0000_0000_0011_0011 = .ok (.cmp 1 2) := by decide
theorem test_decode_isz : decode 0b0000_0000_0000_0001_0000_0000_0011_0100 = .ok (.isz 1) := by decide
theorem test_decode_digest256 : decode 0b0000_0000_0000_0001_0000_0010_0100_0000 = .ok (.digest256 2 1) := by decide
theorem test_decode_digest512 : decode 0b0000_0000_0000_0001_0000_0010_0100_0001 = .ok (.digest512 2 1) := by decide
theorem test_decode_gcd : decode 0b0000_0000_0010_0001_0000_0011_0101_0000 = .ok (.gcd 3 1 2) := by decide
/-- `EEA B5, B6, B7, B1, B2, B3` of R91: RF, the third destination, is bits 31:28. -/
theorem test_decode_eea : decode 0b0111_0011_0010_0001_0110_0101_0101_0001 = .ok (.eea 5 6 7 1 2 3) := by decide
/-- MINV has no RB: the modulus is RC (V-NT-9, 0x02010352). -/
theorem test_decode_minv : decode 0b0000_0010_0000_0001_0000_0011_0101_0010 = .ok (.minv 3 1 2) := by decide
theorem test_decode_isprime : decode 0b0000_0000_0000_0001_0000_0000_0101_0011 = .ok (.isprime 1) := by decide

/-- The four words of R91 out of the encoder. -/
theorem test_encode_examples : encode (.add 1 2 3) = 0x00320110 ∧ encode (.divrem 4 5 2 3) = 0x00325415 ∧
    encode (.expm 4 1 2 3) = 0x03210424 ∧ encode (.eea 5 6 7 1 2 3) = 0x73216551 := by decide

/-- The spelling of R91. -/
theorem test_asm_examples : (Instr.add 1 2 3).asm = "ADD B1, B2, B3" ∧
    (Instr.divrem 4 5 2 3).asm = "DIVREM B4, B5, B2, B3" ∧ (Instr.eea 5 6 7 1 2 3).asm = "EEA B5, B6, B7, B1, B2, B3" := by
  decide +kernel

/-- V-DEC-1 to V-DEC-4, V-DEC-8: reserved OPC values, the all-zero word among them (R88). -/
theorem test_decode_reserved : decode 0x00000000 = .error .reservedOpcode ∧ decode 0x000000FF = .error .reservedOpcode ∧
    decode 0x00000003 = .error .reservedOpcode ∧ decode 0x00210342 = .error .reservedOpcode ∧
    decode 0x00010054 = .error .reservedOpcode := by decide

/-- V-DEC-5 to V-DEC-7: a non-zero unused field (R84). -/
theorem test_decode_unused_field : decode 0x00321110 = .error .unusedField ∧ decode 0x00010102 = .error .unusedField ∧
    decode 0x01000033 = .error .unusedField := by decide

/-- V-DEC-9, V-DEC-10, and the other two pairs of EEA (R89). -/
theorem test_decode_equal_destinations : decode 0x00324415 = .error .equalDestinations ∧ decode 0x73215551 = .error .equalDestinations ∧
    decode 0x53216551 = .error .equalDestinations ∧ decode 0x63216551 = .error .equalDestinations := by decide

/-- R82: all 16 register names decode in a field. -/
theorem test_decode_all_registers : ∀ r : RegId, decode (0x00000002 + BitVec.ofNat 32 (r.val * 2 ^ 8)) = .ok (.ldi r) := by
  decide +kernel

/-- The table's numbering of bits: one 32-bit word, bits above it 0. -/
theorem test_decode_table_word : decodeTableWord 32 0x00320110 = some (.add 1 2 3) ∧ decodeTableWord 32 0 = none := by
  decide

/-! ### Well-formedness: an ill-formed command for each check of R89 -/

theorem test_ill_formed_divrem : (Instr.divrem 4 4 2 3).wellFormed = false := by decide
theorem test_ill_formed_eea_de : (Instr.eea 5 5 7 1 2 3).wellFormed = false := by decide
theorem test_ill_formed_eea_df : (Instr.eea 5 6 5 1 2 3).wellFormed = false := by decide
theorem test_ill_formed_eea_ef : (Instr.eea 5 6 6 1 2 3).wellFormed = false := by decide
/-- V-DEC-12: a source may equal a destination. -/
theorem test_well_formed_alias : (Instr.eea 5 6 7 1 2 7).wellFormed = true := by decide
/-- R92: SHL counts 1 .. 2^31 - 1, SHR counts 1 .. 2^31. -/
theorem test_ill_formed_pseudo : (Pseudo.shl 1 2 0).wellFormed = false ∧ (Pseudo.shl 1 2 (2 ^ 31)).wellFormed = false ∧
    (Pseudo.shr 1 2 (2 ^ 31)).wellFormed = true ∧ (Pseudo.shr 1 2 (2 ^ 31 + 1)).wellFormed = false := by decide

/-! ### One command on a small machine -/

/-- A small build: MAXW 16, and the MR_TAIL that V-NT-22 names first. -/
def cfg16 : Config := ⟨16, 0x40000, ⟨53, 59, 101⟩⟩

/-- A machine after reset with ARG set and some registers loaded, each as (register, LEN, value). -/
def mk (c : Config) (arg : Word) (rs : List (RegId × Nat × Nat)) : State :=
  rs.foldl (fun s r => s.setReg r.1 (Reg.ofValue c.maxw r.2.1 r.2.2)) { State.resetOf c with arg := arg }

/-- `mk` in the small build. -/
def st (arg : Word) (rs : List (RegId × Nat × Nat)) : State := mk cfg16 arg rs

/-- The next state of an outcome; the test's fallback state where there is none. -/
def nextOr (fallback : State) (o : Host.Outcome State Fault Refusal) : State :=
  match o with
  | .next t => t
  | .fault _ => fallback
  | .refused _ => fallback

/-- The state after the command word has been accepted and has completed; a stop would leave the code E_ARG, HERR set. -/
def after (cw : Nat) (s : State) : State :=
  nextOr { s with errcode := .arg, herr := true } (step (s.withFetchWord 32 cw))

/-- What a test looks at in one register. -/
def see (t : State) (r : RegId) : Nat × Nat × ErrCode := (t.x r, t.len r, t.errcode)

/-- V-MOVE-1: LEN is copied, not made canonical. -/
theorem test_mov_keeps_len : see (after 0x00010201 (st 0 [(1, 3, 5)])) 2 = (5, 3, .ok) := by decide +kernel
/-- V-MOVE-2: LEN 0 is copied. -/
theorem test_mov_empty : see (after 0x00010201 (st 0 [(2, 1, 7)])) 2 = (0, 0, .ok) := by decide +kernel
/-- V-MOVE-5, V-MOVE-4: all 32 bits of ARG, LEN 1 also for 0. -/
theorem test_ldi : see (after 0x00000302 (st 0xFFFFFFFF [])) 3 = (4294967295, 1, .ok) ∧
    see (after 0x00000302 (st 0 [(3, 2, 9)])) 3 = (0, 1, .ok) := by decide +kernel
/-- V-ARITH-1: the carry out of the top word grows LEN. -/
theorem test_add_carry : see (after 0x00210310 (st 0 [(1, 3, 2 ^ 96 - 1), (2, 1, 1)])) 3 = (2 ^ 96, 4, .ok) := by
  decide +kernel
/-- V-ARITH-3 at MAXW = 16: E_CAP, the destination kept. -/
theorem test_add_capacity : see (after 0x00210310 (st 0 [(1, 16, 2 ^ 512 - 1), (2, 1, 1), (3, 2, 9)])) 3 = (9, 2, .cap) := by
  decide +kernel
/-- V-ARITH-5: the borrow crosses two words. -/
theorem test_sub_borrow : see (after 0x00210311 (st 0 [(1, 3, 2 ^ 64), (2, 1, 1)])) 3 = (0xFFFFFFFFFFFFFFFF, 2, .ok) := by
  decide +kernel
/-- V-ARITH-6. -/
theorem test_sub_underflow : see (after 0x00210311 (st 0 [(1, 1, 3), (2, 1, 5), (3, 2, 9)])) 3 = (9, 2, .under) := by
  decide +kernel
/-- V-ARITH-8. -/
theorem test_mul : see (after 0x00210312 (st 0 [(1, 2, 2 ^ 64 - 1), (2, 2, 2 ^ 64 - 1)])) 3 =
    (0xFFFFFFFFFFFFFFFE0000000000000001, 4, .ok) := by decide +kernel
/-- V-ARITH-10, V-ARITH-11 at MAXW = 16: exactly MAXW words, and one word more. -/
theorem test_mul_capacity : see (after 0x00210312 (st 0 [(1, 9, 2 ^ 256), (2, 8, 2 ^ 224)])) 3 = (2 ^ 480, 16, .ok) ∧
    see (after 0x00210312 (st 0 [(1, 9, 2 ^ 256), (2, 9, 2 ^ 256)])) 3 = (0, 0, .cap) := by decide +kernel
/-- V-ARITH-15, V-ARITH-13. -/
theorem test_divq : see (after 0x00210313 (st 0 [(1, 3, 2 ^ 96 - 1), (2, 2, 2 ^ 32)])) 3 = (0xFFFFFFFFFFFFFFFF, 2, .ok) ∧
    see (after 0x00210313 (st 0 [])) 3 = (0, 0, .divzero) := by decide +kernel
/-- V-ARITH-19, V-ARITH-12. -/
theorem test_mod : see (after 0x00210314 (st 0 [(1, 4, 2 ^ 96), (2, 1, 7)])) 3 = (1, 1, .ok) ∧
    see (after 0x00210314 (st 0 [(1, 1, 5), (2, 1, 0)])) 3 = (0, 0, .divzero) := by decide +kernel
/-- V-ARITH-17: the remainder replaces the dividend. -/
theorem test_divrem_in_place : (fun t : State => (t.x 4, t.x 2, t.x 3)) (after 0x00322415 (st 0 [(2, 1, 100), (3, 1, 7)])) =
    (14, 2, 7) := by decide +kernel
/-- V-ARITH-18: neither destination is written. -/
theorem test_divrem_by_zero : (fun t : State => (t.x 4, t.x 5, t.errcode))
    (after 0x00215415 (st 0 [(1, 1, 3), (4, 1, 8), (5, 1, 9)])) = (8, 9, .divzero) := by decide +kernel
/-- V-MOD-1; V-MOD-3 at MAXW = 16: a sum of MAXW + 1 words is no E_CAP. -/
theorem test_addm : see (after 0x03210420 (st 0 [(1, 1, 5), (2, 1, 4), (3, 1, 7)])) 4 = (2, 1, .ok) ∧
    see (after 0x03210420 (st 0 [(1, 16, 2 ^ 512 - 1), (2, 1, 1), (3, 4, 2 ^ 100)])) 4 = (0, 1, .ok) := by decide +kernel
/-- V-MOD-5: the residue of -30 mod 7. -/
theorem test_subm : see (after 0x03210421 (st 0 [(1, 1, 0), (2, 1, 30), (3, 1, 7)])) 4 = (5, 1, .ok) := by decide +kernel
/-- V-MOD-7. -/
theorem test_mulm : see (after 0x03210422 (st 0 [(1, 1, 0xFFFFFFFF), (2, 1, 0xFFFFFFFF), (3, 1, 1000)])) 4 =
    (25, 1, .ok) := by decide +kernel
/-- V-MOD-9, V-MOD-10: the floor quotient, not a modular inverse. -/
theorem test_divm : see (after 0x03210423 (st 0 [(1, 1, 100), (2, 1, 7), (3, 1, 5)])) 4 = (4, 1, .ok) ∧
    see (after 0x03210423 (st 0 [(1, 1, 100), (3, 1, 5)])) 4 = (0, 0, .divzero) := by decide +kernel
/-- V-MOD-12. -/
theorem test_expm : see (after 0x03210424 (st 0 [(1, 1, 4), (2, 1, 13), (3, 1, 497)])) 4 = (445, 1, .ok) := by
  decide +kernel
/-- V-MOD-16, V-MOD-17: exponent 0 gives 1 also mod 1. -/
theorem test_expm_mod_one : see (after 0x03210424 (st 0 [(1, 1, 5), (2, 1, 0), (3, 1, 1)])) 4 = (1, 1, .ok) ∧
    see (after 0x03210424 (st 0 [(1, 1, 5), (2, 1, 3), (3, 1, 1)])) 4 = (0, 1, .ok) := by decide +kernel
/-- V-BIT-3, V-BIT-4, V-BIT-6: left by 1, right by 1, right by 2^31. -/
theorem test_shift : see (after 0x00010230 (st 1 [(1, 1, 0x80000000)])) 2 = (2 ^ 32, 2, .ok) ∧
    see (after 0x00010230 (st 0xFFFFFFFF [(1, 3, 2 ^ 64)])) 2 = (2 ^ 63, 2, .ok) ∧
    see (after 0x00010230 (st 0x80000000 [(1, 3, 2 ^ 64)])) 2 = (0, 1, .ok) := by decide +kernel
/-- V-BIT-7, V-BIT-8 at MAXW = 16, and V-BIT-9: no E_CAP for a source of value 0. -/
theorem test_shift_capacity : see (after 0x00010230 (st 511 [(1, 1, 1)])) 2 = (2 ^ 511, 16, .ok) ∧
    see (after 0x00010230 (st 512 [(1, 1, 1)])) 2 = (0, 0, .cap) ∧
    see (after 0x00010230 (st 0x7FFFFFFF [(1, 1, 0)])) 2 = (0, 1, .ok) := by decide +kernel
/-- V-BIT-11, V-BIT-12. -/
theorem test_testbit : (after 0x00010031 (st 31 [(1, 1, 0x80000000)])).flags.toWord = 0x8 ∧
    (after 0x00010031 (st 32 [(1, 1, 0x80000000)])).flags.toWord = 0x0 := by decide +kernel
/-- V-BIT-18, V-BIT-17. -/
theorem test_setbit : see (after 0x00000132 (st 40 [(1, 2, 1)])) 1 = (0x10000000001, 2, .ok) ∧
    see (after 0x00000132 (st 32 [(1, 1, 1)])) 1 = (1, 1, .ok) := by decide +kernel
/-- V-BIT-21: LEN is ignored. V-BIT-26: T is kept. -/
theorem test_cmp : (after 0x00210033 (st 0 [(1, 3, 7), (2, 1, 7)])).flags.toWord = 0x2 ∧
    (after 0x00210033 { st 0 [(1, 1, 5), (2, 1, 7)] with flags := ⟨false, false, false, true⟩ }).flags.toWord = 0x9 := by
  decide +kernel
/-- V-BIT-24, V-BIT-25. -/
theorem test_isz : (after 0x00010034 (st 0 [(1, 4, 0)])).flags.toWord = 0x8 ∧
    (after 0x00010034 (st 0 [(1, 2, 2 ^ 40)])).flags.toWord = 0x0 := by decide +kernel
/-- V-HASH-2: the digest of the three bytes 61 62 63. -/
theorem test_digest256_abc : see (after 0x00010240 (st 3 [(1, 1, 0x616263)])) 2 =
    (0xba7816bf8f01cfea414140de5dae2223b00361a396177a9cb410ff61f20015ad, 8, .ok) := by decide +kernel
/-- V-HASH-15, V-HASH-16. -/
theorem test_digest256_argument : see (after 0x00010240 (st 1 [(1, 1, 0x100)])) 2 = (0, 0, .arg) ∧
    see (after 0x00010240 (st 0 [(1, 1, 1)])) 2 = (0, 0, .arg) := by decide +kernel
/-- V-HASH-11. -/
theorem test_digest512_abc : see (after 0x00010241 (st 3 [(1, 1, 0x616263)])) 2 =
    (0xddaf35a193617abacc417349ae20413112e6fa4e89a97ea20a9eeee64b55d39a2192992a274fc1a836ba3c23a3feebbd454d4423643ce80e2a9ac94fa54ca49f,
      16, .ok) := by decide +kernel
/-- V-HASH-17 at MAXW = 16. -/
theorem test_digest512_argument : see (after 0x00010241 (st 65 [])) 2 = (0, 0, .arg) := by decide +kernel
/-- V-NT-1, V-NT-2. -/
theorem test_gcd : see (after 0x00210350 (st 0 [(1, 1, 48), (2, 1, 18)])) 3 = (6, 1, .ok) ∧
    see (after 0x00210350 (st 0 [])) 3 = (0, 1, .ok) := by decide +kernel
/-- V-NT-5. -/
theorem test_eea : (fun t : State => (t.x 5, t.x 6, t.x 7)) (after 0x73216551 (st 0 [(1, 1, 240), (2, 1, 46), (3, 1, 1000)])) =
    (2, 991, 47) := by decide +kernel
/-- V-NT-7: the modulus is checked before the degenerate case. -/
theorem test_eea_modulus : (after 0x73216551 (st 0 [(2, 1, 46)])).errcode = .divzero := by decide +kernel
/-- V-NT-9. -/
theorem test_minv : (fun t : State => (t.x 3, t.flags.toWord)) (after 0x02010352 (st 0 [(1, 1, 3), (2, 1, 7)])) =
    (5, 0x8) := by decide +kernel
/-- V-NT-11, V-NT-13: no inverse is no error; everything is a unit mod 1. -/
theorem test_minv_no_inverse : (fun t : State => (t.x 3, t.flags.toWord, t.errcode))
      (after 0x02010352 (st 0 [(1, 1, 4), (2, 1, 8)])) = (1, 0x0, .ok) ∧
    (fun t : State => (t.x 3, t.flags.toWord, t.errcode)) (after 0x02010352 (st 0 [(1, 1, 5), (2, 1, 1)])) =
      (0, 0x8, .ok) := by decide +kernel
/-- V-NT-18, V-NT-20, and V-NT-15: the prime 2 gives 0. -/
theorem test_isprime : (after 0x00010053 (st 0 [(1, 2, 2 ^ 61 - 1)])).flags.t = true ∧
    (after 0x00010053 (st 0 [(1, 3, 2 ^ 64 + 1)])).flags.t = false ∧
    (after 0x00010053 (st 0 [(1, 1, 2)])).flags.t = false := by decide +kernel
/-- V-NT-22: the result is a function of MR_TAIL. -/
theorem test_isprime_tail : (after 0x00010053 (st 0 [(1, 2, 3825123056546413051)])).flags.t = true ∧
    (after 0x00010053 (mk ⟨16, 0, ⟨37, 41, 101⟩⟩ 0 [(1, 2, 3825123056546413051)])).flags.t = false := by decide +kernel
/-- V-HASH-1, V-HASH-10: the digests of the empty message. -/
theorem test_empty_message_digests : digestValue (hashMessage digest256Params 0 0) =
      0xe3b0c44298fc1c149afbf4c8996fb92427ae41e4649b934ca495991b7852b855 ∧
    digestValue (hashMessage digest512Params 0 0) =
      0xcf83e1357eefb8bdf1542850d66d8007d620e4050b5715dc83f4a921d36ce9ce47d0d13c5d85f2b0ff8318d2877eec2f63b931bd47417a81a538327af927da3e := by
  decide +kernel
/-- V-HASH-5, V-HASH-6, V-HASH-12, V-HASH-13: where the padding spills into a second block. -/
theorem test_block_counts : (blockCount digest256Params 55, blockCount digest256Params 56) = (1, 2) ∧
    (blockCount digest512Params 111, blockCount digest512Params 112) = (1, 2) := by decide +kernel

/-- The STATUS a host reads after each error, the codes as numbers: V-DEC-1, V-DEC-11, V-ARITH-6, V-HASH-17 and V-ARITH-3, the
last two at MAXW = 16. -/
theorem test_error_status : statusWord (after 0x00000000 (st 0 [])) = 0x0106 ∧
    statusWord (after 0x00325415 (st 0 [])) = 0x0206 ∧
    statusWord (after 0x00210311 (st 0 [(1, 1, 3), (2, 1, 5)])) = 0x0306 ∧
    statusWord (after 0x00010241 (st 65 [])) = 0x0406 ∧
    statusWord (after 0x00210310 (st 0 [(1, 16, 2 ^ 512 - 1), (2, 1, 1)])) = 0x0506 := by decide +kernel

/-- A table word runs as the first command after reset: GCD of two empty registers (V-NT-2). -/
theorem test_first_command_after_reset : see (nextOr State.reset (step (State.reset.withFetchWord 32 0x00210350))) 3 =
    (0, 1, .ok) := by decide +kernel

/-! ### The window -/

/-- The state after one access. -/
def access (s : State) (e : Event) : State := nextOr s (step { s with inputs := [e] })

/-- V-WIN-1: CAPS of the build with MAXW = 256. -/
theorem test_caps : (access (State.resetOf ⟨256, 0x40000, ⟨53, 59, 101⟩⟩) (.access ⟨0x40000, 4, .single, .read⟩)).readData =
    some 0x01000010 := by decide +kernel
/-- V-WIN-2, V-WIN-8: HERR. -/
theorem test_rejected_writes : statusWord (access (st 0 []) (memWrite cfg16 0x018 5)) = 0x0008 ∧
    statusWord (access (st 0 []) (memWrite cfg16 0x00C 1)) = 0x0008 := by decide +kernel
/-- V-WIN-9, V-WIN-10: truncation, then raising LEN. -/
theorem test_reglen : see (access (st 0 [(1, 3, 2 ^ 64 + 5)]) (memWrite cfg16 0x104 1)) 1 = (5, 1, .ok) ∧
    see (access (st 0 [(1, 1, 5)]) (memWrite cfg16 0x104 3)) 1 = (5, 3, .ok) := by decide +kernel
/-- R37 and item I12: reserved bits of REGLEN data are ignored, so this sets LEN to 1. -/
theorem test_reglen_reserved_bits : see (access (st 0 [(1, 3, 2 ^ 64 + 5)]) (memWrite cfg16 0x104 0x80000001)) 1 = (5, 1, .ok) ∧
    (access (st 0 [(1, 3, 2 ^ 64 + 5)]) (memWrite cfg16 0x104 0x80000001)).herr = false := by decide +kernel
/-- R92: `LI B3, 7` with two polls before the completion; the last read is STATUS with DONE alone. -/
theorem test_li_polls : (fun t : State => (see t 3, t.readData, t.inputs)) (nextOr (st 0 []) (Sys2Proof.core.run 6
    ((st 0 []).withInputs ((Pseudo.li 3 7).expand cfg16 2)))) = ((7, 1, .ok), some 0x00000002, []) := by decide +kernel
/-- V-WIN-11, V-WIN-12: a CTRL write of 3 resets and leaves IE 0; of 5 sets IE and no HERR. -/
theorem test_ctrl : ctrlWord (access (st 0 [(1, 1, 5)]) (memWrite cfg16 0x004 3)) = 0 ∧
    (access (st 0 [(1, 1, 5)]) (memWrite cfg16 0x004 3)).len 1 = 0 ∧
    ctrlWord (access (st 0 []) (memWrite cfg16 0x004 5)) = 1 ∧
    (access (st 0 []) (memWrite cfg16 0x004 5)).herr = false := by decide +kernel
/-- V-WIN-13, V-WIN-14: an ARG write while BUSY is dropped with HERR; a STATUS write clears HERR, not BUSY. -/
theorem test_busy_window : statusWord (access ((st 9 []).accept 0x00000102) (memWrite cfg16 0x010 10)) = 0x0009 ∧
    (access ((st 9 []).accept 0x00000102) (memWrite cfg16 0x010 10)).arg = 9 ∧
    statusWord (access { (st 9 []).accept 0x00000102 with herr := true } (memWrite cfg16 0x008 0xFFFFFFFF)) = 0x0001 := by
  decide +kernel
/-- R51: a two-byte access, a misaligned one, one past the window and a burst are refused. -/
theorem test_refused_accesses : ∀ a ∈ [(⟨0x40000, 2, .single, .read⟩ : Access), ⟨0x40002, 4, .single, .read⟩,
    ⟨0x60000, 4, .single, .read⟩, ⟨0x40000, 4, .burst, .read⟩], admitted cfg16 a = false := by decide

/-! ### Witnesses: data that meet the hypotheses of each statement -/

/-- An outcome is a next state of which `P` holds. -/
def completes (o : Host.Outcome State Fault Refusal) (P : State → Bool) : Bool :=
  match o with
  | .next t => P t
  | .fault _ => false
  | .refused _ => false

theorem next_of {o : Host.Outcome State Fault Refusal} {P : State → Bool} (h : completes o P = true) :
    ∃ t, o = .next t ∧ P t = true := by
  cases o with
  | next t => exact ⟨t, rfl, h⟩
  | fault r => cases r
  | refused r => cases h

/-- A busy machine of the small build: the word `cw` accepted with ARG = `arg`. -/
def busySt (cw arg : Word) (rs : List (RegId × Nat × Nat)) : State := (st arg rs).accept cw

theorem busySt_pending (cw arg : Word) : (busySt cw arg []).pending = some ⟨cw, arg⟩ := rfl

theorem witness_DecodeInvertsEncode : (Instr.eea 15 0 7 15 15 15).wellFormed = true ∧
    (Instr.divrem 0 15 0 0).wellFormed = true := by decide

theorem witness_EncodeInvertsDecode : decode 0x7FFF0F51 = .ok (.eea 15 0 7 15 15 15) ∧
    decode 0x00000002 = .ok (.ldi 0) := by decide

/-- A row matches (legal; equal destinations); no row has the OPC; the row of the OPC does not match. -/
theorem witness_DecoderFollowsOpcodeMap :
    (∃ row ∈ opcodeMap, (0x00325415 : Word) &&& row.mask = row.pattern ∧
      (row.build (fieldsOf 0x00325415)).wellFormed = true) ∧
    (∃ row ∈ opcodeMap, (0x00324415 : Word) &&& row.mask = row.pattern ∧
      (row.build (fieldsOf 0x00324415)).wellFormed = false) ∧
    (∀ row ∈ opcodeMap, (0x00000000 : Word).extractLsb' 0 8 ≠ row.opc) ∧
    (∀ row ∈ opcodeMap, (0x00010054 : Word).extractLsb' 0 8 ≠ row.opc) ∧
    (∃ row ∈ opcodeMap, (0x01000033 : Word).extractLsb' 0 8 = row.opc ∧ (0x01000033 : Word) &&& row.mask ≠ row.pattern) := by
  decide +kernel

/-- The engine's move with no input left, and with its turn at the head of the order. -/
theorem witness_StepRunsDecodedCommand :
    (∃ s u p i, s.pending = some p ∧ EngineMoves s u ∧ decode p.word = .ok i ∧ s.inputs = []) ∧
    (∃ s u p i, s.pending = some p ∧ EngineMoves s u ∧ decode p.word = .ok i ∧ u.inputs = [.hardReset]) :=
  ⟨⟨busySt 0x00000302 7 [], busySt 0x00000302 7 [], ⟨0x00000302, 7⟩, .ldi 3, rfl, .inl ⟨rfl, rfl⟩, by decide, rfl⟩,
    ⟨(busySt 0x00000302 7 []).withInputs [.engine, .hardReset], (busySt 0x00000302 7 []).withInputs [.hardReset],
      ⟨0x00000302, 7⟩, .ldi 3, rfl, .inr ⟨_, rfl, rfl⟩, by decide, rfl⟩⟩

/-- A pending word for each of the four causes. -/
theorem witness_IllegalWordsWriteNothing : EngineMoves (busySt 0x00000000 0 []) (busySt 0x00000000 0 []) ∧
    (∀ row ∈ opcodeMap, (0x000000FF : Word).extractLsb' 0 8 ≠ row.opc) ∧
    (∃ row ∈ opcodeMap, (0x00010102 : Word).extractLsb' 0 8 = row.opc ∧ (0x00010102 : Word) &&& row.mask ≠ row.pattern) ∧
    ((0x00324415 : Word).extractLsb' 0 8 = 0x15#8 ∧ (0x00324415 : Word).extractLsb' 8 4 = (0x00324415 : Word).extractLsb' 12 4) ∧
    ((0x63216551 : Word).extractLsb' 0 8 = 0x51#8 ∧
      (0x63216551 : Word).extractLsb' 12 4 = (0x63216551 : Word).extractLsb' 28 4) :=
  ⟨.inl ⟨rfl, rfl⟩, by decide +kernel⟩

/-- A completion with each non-zero code. -/
theorem witness_ErrorsArePrecise :
    (∃ t, exec (.divrem 1 1 2 3) (st 0 []) = .next t ∧ decide (t.errcode = .illegal) = true) ∧
    (∃ t, exec (.mod 1 2 3) (st 0 []) = .next t ∧ decide (t.errcode = .divzero) = true) ∧
    (∃ t, exec (.sub 1 2 3) (st 0 [(3, 1, 1)]) = .next t ∧ decide (t.errcode = .under) = true) ∧
    (∃ t, exec (.digest256 1 2) (st 65 []) = .next t ∧ decide (t.errcode = .arg) = true) ∧
    (∃ t, exec (.mul 1 2 2) (st 0 [(2, 9, 2 ^ 256)]) = .next t ∧ decide (t.errcode = .cap) = true) :=
  ⟨next_of (by decide +kernel), next_of (by decide +kernel), next_of (by decide +kernel), next_of (by decide +kernel),
    next_of (by decide +kernel)⟩

theorem witness_OnlyDestinationsWritten :
    (∃ t, exec (.eea 5 6 7 1 2 3) (st 0 [(1, 1, 240), (2, 1, 46), (3, 1, 1000)]) = .next t ∧
      decide (t.x 6 = 991) = true) ∧
    (∃ t, exec (.cmp 1 2) (st 0 []) = .next t ∧ decide (t.flags.eq = true) = true) :=
  ⟨next_of (by decide +kernel), next_of (by decide +kernel)⟩

/-- Each arm, and a command that writes T but ends in an error. -/
theorem witness_FlagWriters :
    (∃ t, exec (.cmp 1 2) (st 0 [(1, 1, 1)]) = .next t ∧ decide (t.flags.gt = true) = true) ∧
    (∃ t, exec (.testbit 1) (st 0 [(1, 1, 1)]) = .next t ∧ decide (t.flags.t = true) = true) ∧
    (∃ t, exec (.isz 1) (st 0 []) = .next t ∧ decide (t.flags.t = true) = true) ∧
    (∃ t, exec (.isprime 1) (st 0 [(1, 1, 3)]) = .next t ∧ decide (t.flags.t = true) = true) ∧
    (∃ t, exec (.minv 3 1 2) (st 0 [(1, 1, 3), (2, 1, 7)]) = .next t ∧ decide (t.flags.t = true) = true) ∧
    (∃ t, exec (.minv 3 1 2) (st 0 [(1, 1, 3)]) = .next t ∧ decide (t.errcode ≠ .ok) = true) ∧
    (∃ t, exec (.add 3 1 2) (st 0 []) = .next t ∧ decide (t.errcode = .ok) = true) :=
  ⟨next_of (by decide +kernel), next_of (by decide +kernel), next_of (by decide +kernel), next_of (by decide +kernel),
    next_of (by decide +kernel), next_of (by decide +kernel), next_of (by decide +kernel)⟩

theorem witness_ErrorCodesOfEachCommand : (Instr.eea 5 6 7 1 2 3).wellFormed = true ∧
    (∃ t, exec (.eea 5 6 7 1 2 3) (st 0 []) = .next t ∧ decide (t.errcode = .divzero) = true) ∧
    (∃ t, exec (.gcd 5 6 7) (st 0 []) = .next t ∧ decide (t.errcode = .ok) = true) :=
  ⟨by decide, next_of (by decide +kernel), next_of (by decide +kernel)⟩

/-- A legal build and registers that meet R21 and R22: one full register, one of value 0 with LEN above 1. -/
theorem witness_regsWf : cfg16.legal ∧ (st 0 [(1, 16, 2 ^ 512 - 1), (2, 3, 0)]).regsWf ∧
    (st 0 [(1, 16, 2 ^ 512 - 1), (2, 3, 0)]).Inv := by decide +kernel

/-- Each arm: MOV of a register that is not canonical, SETBIT, the digests, and a plain destination. -/
theorem witness_ResultsAreCanonical : cfg16.legal ∧ (st 3 [(1, 3, 5)]).regsWf ∧
    (∃ t, exec (.mov 2 1) (st 3 [(1, 3, 5)]) = .next t ∧ decide (t.errcode = .ok ∧ t.len 2 = 3) = true) ∧
    (∃ t, exec (.setbit 1) (st 3 [(1, 3, 5)]) = .next t ∧ decide (t.errcode = .ok ∧ t.len 1 = 3) = true) ∧
    (∃ t, exec (.digest256 2 1) (st 3 [(1, 3, 5)]) = .next t ∧ decide (t.errcode = .ok ∧ t.len 2 = 8) = true) ∧
    (∃ t, exec (.digest512 2 1) (st 3 [(1, 3, 5)]) = .next t ∧ decide (t.errcode = .ok ∧ t.len 2 = 16) = true) ∧
    (∃ t, exec (.add 2 1 1) (st 3 [(1, 3, 5)]) = .next t ∧ decide (t.errcode = .ok ∧ t.len 2 = 1) = true) :=
  ⟨by decide, by decide +kernel, next_of (by decide +kernel), next_of (by decide +kernel), next_of (by decide +kernel),
    next_of (by decide +kernel), next_of (by decide +kernel)⟩

/-- Two machines whose source differs in LEN alone, for a command that completes and for TESTBIT, which names LEN. -/
theorem witness_SourcesAreReadByValue :
    (st 40 [(1, 1, 5)]).regsWf ∧ (st 40 [(1, 3, 5)]).regsWf ∧ (st 40 [(1, 1, 5)]).cfg = (st 40 [(1, 3, 5)]).cfg ∧
    (st 40 [(1, 1, 5)]).pending = (st 40 [(1, 3, 5)]).pending ∧ (st 40 [(1, 1, 5)]).arg = (st 40 [(1, 3, 5)]).arg ∧
    (st 40 [(1, 1, 5)]).flags = (st 40 [(1, 3, 5)]).flags ∧
    (∀ r ∈ (Instr.testbit 1).sources, (st 40 [(1, 1, 5)]).x r = (st 40 [(1, 3, 5)]).x r) ∧
    (∀ r ∈ (Instr.add 2 1 1).sources, (st 40 [(1, 1, 5)]).x r = (st 40 [(1, 3, 5)]).x r) ∧
    (st 40 [(1, 1, 5)]).len 1 ≠ (st 40 [(1, 3, 5)]).len 1 := by decide +kernel

theorem witness_LdiLoadsArg : (busySt 0x00000302 0xFFFFFFFF []).pending = some ⟨0x00000302, 0xFFFFFFFF⟩ ∧
    16 ≤ (busySt 0x00000302 0xFFFFFFFF []).cfg.maxw := by decide

/-- The largest sum that fits, and the least that does not. -/
theorem witness_AddIsExact :
    clen ((st 0 [(1, 16, 2 ^ 512 - 2), (2, 1, 1)]).x 1 + (st 0 [(1, 16, 2 ^ 512 - 2), (2, 1, 1)]).x 2) ≤ cfg16.maxw ∧
    cfg16.maxw < clen ((st 0 [(1, 16, 2 ^ 512 - 1), (2, 1, 1)]).x 1 + (st 0 [(1, 16, 2 ^ 512 - 1), (2, 1, 1)]).x 2) := by
  decide +kernel

/-- Equal values, and a difference of -1. -/
theorem witness_SubIsExact : (st 0 [(1, 2, 2 ^ 40), (2, 3, 2 ^ 40), (3, 2, 2 ^ 40 - 1)]).regsWf ∧ 16 ≤ cfg16.maxw ∧
    (st 0 [(1, 2, 2 ^ 40), (2, 3, 2 ^ 40)]).x 2 ≤ (st 0 [(1, 2, 2 ^ 40), (2, 3, 2 ^ 40)]).x 1 ∧
    (st 0 [(3, 2, 2 ^ 40 - 1), (2, 3, 2 ^ 40)]).x 3 < (st 0 [(3, 2, 2 ^ 40 - 1), (2, 3, 2 ^ 40)]).x 2 := by decide +kernel

/-- A product of exactly MAXW words, and one of MAXW + 1 words. -/
theorem witness_MulIsExact :
    clen ((st 0 [(1, 16, 2 ^ 511), (2, 1, 1)]).x 1 * (st 0 [(1, 16, 2 ^ 511), (2, 1, 1)]).x 2) ≤ cfg16.maxw ∧
    cfg16.maxw < clen ((st 0 [(1, 16, 2 ^ 511), (2, 1, 2)]).x 1 * (st 0 [(1, 16, 2 ^ 511), (2, 1, 2)]).x 2) := by
  decide +kernel

/-- A divisor of 1 and a divisor of 0 (also with LEN 3), for DIVQ, MOD and DIVREM. -/
theorem witness_DivqAndModDivide : 16 ≤ cfg16.maxw ∧ (st 0 [(1, 1, 5), (2, 1, 1), (3, 3, 0)]).regsWf ∧
    (st 0 [(1, 1, 5), (2, 1, 1), (3, 3, 0)]).x 2 ≠ 0 ∧ (st 0 [(1, 1, 5), (2, 1, 1), (3, 3, 0)]).x 3 = 0 := by
  decide +kernel

theorem witness_DivremDivides : 16 ≤ cfg16.maxw ∧ (st 0 [(1, 1, 5), (2, 1, 1), (3, 3, 0)]).regsWf ∧ (4 : RegId) ≠ 5 ∧
    (st 0 [(1, 1, 5), (2, 1, 1), (3, 3, 0)]).x 2 ≠ 0 ∧ (st 0 [(1, 1, 5), (2, 1, 1), (3, 3, 0)]).x 3 = 0 := by
  decide +kernel

theorem witness_RestoringDivisionDivides : 0 < 1 ∧ restoringDivide (2 ^ 96) 7 = (2 ^ 96 / 7, 1) := by decide +kernel

theorem witness_CarryAndBorrowChains : ([0xFFFFFFFF, 0xFFFFFFFF] : List Word).length = 2 ∧
    ([1, 0] : List Word).length = 2 ∧ valueOf [0, 1] ≤ valueOf [0, 1] := by decide

/-- The sum and the product fit, the divisor is not 0, the first destination is not the second source. -/
theorem witness_ArithmeticRoundTrips : 16 ≤ cfg16.maxw ∧ (st 0 [(1, 16, 2 ^ 511), (2, 1, 1)]).regsWf ∧ (3 : RegId) ≠ 2 ∧
    clen ((st 0 [(1, 16, 2 ^ 511), (2, 1, 1)]).x 1 + (st 0 [(1, 16, 2 ^ 511), (2, 1, 1)]).x 2) ≤ cfg16.maxw ∧
    clen ((st 0 [(1, 16, 2 ^ 511), (2, 1, 1)]).x 1 * (st 0 [(1, 16, 2 ^ 511), (2, 1, 1)]).x 2) ≤ cfg16.maxw ∧
    (st 0 [(1, 16, 2 ^ 511), (2, 1, 1)]).x 2 ≠ 0 := by decide +kernel

/-- A modulus of 1, a divisor of 0 beside it, and a modulus of 0. -/
theorem witness_ModularCommandsReduce : 16 ≤ cfg16.maxw ∧ (st 0 [(1, 1, 5), (2, 1, 9), (3, 1, 1)]).regsWf ∧
    (st 0 [(1, 1, 5), (2, 1, 9), (3, 1, 1)]).x 3 ≠ 0 ∧ (st 0 [(1, 1, 5), (2, 1, 9), (3, 1, 1)]).x 2 ≠ 0 ∧
    (st 0 [(1, 1, 5), (2, 1, 9), (3, 1, 1)]).x 4 = 0 := by decide +kernel

/-- A modulus of 1 with exponent 0 and with exponent 3, and a modulus of 0. -/
theorem witness_ExpmIsPowerMod : 16 ≤ cfg16.maxw ∧ (st 0 [(1, 1, 5), (2, 1, 3), (3, 1, 1)]).regsWf ∧
    (st 0 [(1, 1, 5), (2, 1, 3), (3, 1, 1)]).x 3 ≠ 0 ∧ (st 0 [(1, 1, 5), (2, 1, 3), (3, 1, 1)]).x 4 = 0 := by
  decide +kernel

/-- Counts 0 and 511 that fit, 512 that does not, -1 and -2^31. -/
theorem witness_ShiftBySignedCount : (busySt 0x00010230 511 [(1, 1, 1)]).pending = some ⟨0x00010230, 511⟩ ∧
    (busySt 0x00010230 511 [(1, 1, 1)]).regsWf ∧ 16 ≤ cfg16.maxw ∧
    0 ≤ (0 : Word).toInt ∧ 0 ≤ (511 : Word).toInt ∧
    clen ((busySt 0x00010230 511 [(1, 1, 1)]).x 1 * 2 ^ (511 : Word).toInt.toNat) ≤ cfg16.maxw ∧
    0 ≤ (512 : Word).toInt ∧ cfg16.maxw < clen ((busySt 0x00010230 512 [(1, 1, 1)]).x 1 * 2 ^ (512 : Word).toInt.toNat) ∧
    (0xFFFFFFFF : Word).toInt < 0 ∧ (0x80000000 : Word).toInt < 0 := by decide +kernel

/-- Index 31, the last of one word, and index 32, the first beyond it. -/
theorem witness_TestbitReadsTheBit : (busySt 0x00010031 32 [(1, 1, 0x80000000)]).pending = some ⟨0x00010031, 32⟩ ∧
    (busySt 0x00010031 32 [(1, 1, 0x80000000)]).regsWf ∧
    32 * (busySt 0x00010031 32 [(1, 1, 0x80000000)]).len 1 ≤ (32 : Word).toNat ∧
    ¬ 32 * (busySt 0x00010031 31 [(1, 1, 0x80000000)]).len 1 ≤ (31 : Word).toNat := by decide +kernel

theorem witness_SetbitSetsOneBit : (busySt 0x00000132 31 [(1, 1, 1)]).pending = some ⟨0x00000132, 31⟩ ∧
    (busySt 0x00000132 31 [(1, 1, 1)]).regsWf ∧
    (31 : Word).toNat < 32 * (busySt 0x00000132 31 [(1, 1, 1)]).len 1 ∧
    32 * (busySt 0x00000132 32 [(1, 1, 1)]).len 1 ≤ (32 : Word).toNat := by decide +kernel

/-- n = 4 * MAXW and the largest value of one byte are in range; n = 4 * MAXW + 1 and a value of two bytes are not. -/
theorem witness_Digest256WritesEightWords : (busySt 0x00010240 64 []).pending = some ⟨0x00010240, 64⟩ ∧ 16 ≤ cfg16.maxw ∧
    4 * cfg16.maxw < (65 : Word).toNat ∧
    2 ^ (8 * (1 : Word).toNat) ≤ (busySt 0x00010240 1 [(1, 1, 0x100)]).x 1 ∧
    (64 : Word).toNat ≤ 4 * cfg16.maxw ∧ (busySt 0x00010240 64 []).x 1 < 2 ^ (8 * (64 : Word).toNat) ∧
    (busySt 0x00010240 1 [(1, 1, 0xFF)]).x 1 < 2 ^ (8 * (1 : Word).toNat) := by decide +kernel

theorem witness_Digest512WritesSixteenWords : (busySt 0x00010241 64 []).pending = some ⟨0x00010241, 64⟩ ∧ 16 ≤ cfg16.maxw ∧
    4 * cfg16.maxw < (65 : Word).toNat ∧
    2 ^ (8 * (1 : Word).toNat) ≤ (busySt 0x00010241 1 [(1, 1, 0x100)]).x 1 ∧
    (64 : Word).toNat ≤ 4 * cfg16.maxw ∧ (busySt 0x00010241 64 []).x 1 < 2 ^ (8 * (64 : Word).toNat) ∧
    (busySt 0x00010241 1 [(1, 1, 0xFF)]).x 1 < 2 ^ (8 * (1 : Word).toNat) := by decide +kernel

/-- The empty message, and the 55 and 56 zero bytes of V-HASH-5 and V-HASH-6; some k below the zero bits; the first and the
last block, and a block of the list. -/
theorem witness_PaddingFillsBlocks : 0 < digest256Params.blockBits ∧ 0 < 2 ^ (8 * 0) ∧ 8 * 56 < 2 ^ digest256Params.lenBits ∧
    padZeros digest256Params (8 * 55) = 7 ∧ 6 < padZeros digest256Params (8 * 55) ∧
    1 ≤ blockCount digest256Params 56 ∧ 2 ≤ blockCount digest256Params 56 ∧ 448 ∈ blocksOf digest256Params 0 56 := by
  decide +kernel

/-- Both digests; t at both ends of both clauses on the schedule, and the last round and block. -/
theorem witness_ScheduleRoundsAndChaining : 16 ≤ digest256Params.k.length ∧ 16 ≤ digest512Params.k.length ∧ 15 < 16 ∧
    63 < digest256Params.k.length ∧ 79 < digest512Params.k.length ∧ 1 < blockCount digest256Params 56 := by decide +kernel

theorem witness_HashFunctions : 0 ≤ 32 ∧ 32 ≤ 32 ∧ (rotr 32 (5 : Word)).toNat = 5 ∧ 31 < 32 ∧ 63 < 64 := by decide +kernel

theorem witness_GcdIsGreatestDivisor : 16 ≤ cfg16.maxw ∧ (st 0 [(1, 1, 48), (2, 1, 18)]).regsWf := by decide +kernel

/-- Each clause: both values positive; one of them 0; modulus 0. -/
theorem witness_EeaGivesBezout : 16 ≤ cfg16.maxw ∧ (st 0 [(1, 1, 240), (2, 1, 46), (3, 1, 1)]).regsWf ∧
    (5 : RegId) ≠ 6 ∧ (5 : RegId) ≠ 7 ∧ (6 : RegId) ≠ 7 ∧
    (st 0 [(1, 1, 240), (2, 1, 46), (3, 1, 1)]).x 1 ≠ 0 ∧ (st 0 [(1, 1, 240), (2, 1, 46), (3, 1, 1)]).x 2 ≠ 0 ∧
    (st 0 [(1, 1, 240), (2, 1, 46), (3, 1, 1)]).x 3 ≠ 0 ∧ (st 0 [(1, 1, 240), (2, 1, 46), (3, 1, 1)]).x 4 = 0 := by
  decide +kernel

/-- A unit, a value with no inverse, 0, and a modulus of 1; a modulus of 0. -/
theorem witness_MinvInverts : 16 ≤ cfg16.maxw ∧ (st 0 [(1, 1, 3), (2, 1, 7), (3, 1, 1)]).regsWf ∧
    (st 0 [(1, 1, 3), (2, 1, 7), (3, 1, 1)]).x 2 ≠ 0 ∧ (st 0 [(1, 1, 3), (2, 1, 7), (3, 1, 1)]).x 3 ≠ 0 ∧
    (st 0 [(1, 1, 3), (2, 1, 7), (3, 1, 1)]).x 4 = 0 ∧
    (∃ t, exec (.minv 4 1 2) (st 0 [(1, 1, 3), (2, 1, 7), (3, 1, 1)]) = .next t ∧ decide (t.flags.t = true) = true) :=
  ⟨by decide, by decide +kernel, by decide +kernel, by decide +kernel, by decide +kernel, next_of (by decide +kernel)⟩

/-- n = 3, the least prime of the clause; n = 2; n = 4; n = 5, which witness 2 tests and 5 skips. -/
theorem witness_IsprimeIsMillerRabin : (st 0 [(1, 1, 3)]).x 1 = 3 ∧ 3 < (st 0 [(1, 1, 5)]).x 1 ∧
    2 < (st 0 [(1, 1, 5)]).x 1 - 1 ∧ ¬ 5 < (st 0 [(1, 1, 5)]).x 1 - 1 := by decide +kernel

theorem witness_PrimesPassIsprime : cfg16.legal ∧ Nat.Prime ((st 0 [(1, 1, 3)]).x 1) ∧ 3 ≤ (st 0 [(1, 1, 3)]).x 1 ∧
    (st 0 [(1, 1, 2)]).x 1 < 3 ∧ 4 ≤ (st 0 [(1, 1, 4)]).x 1 ∧ (st 0 [(1, 1, 4)]).x 1 % 2 = 0 := by
  have h : (st 0 [(1, 1, 3)]).x 1 = 3 := by decide +kernel
  exact ⟨by decide, by rw [h]; exact Nat.prime_three, by decide +kernel⟩

theorem witness_ValueIsSumOfWords : (st 0 [(1, 16, 2 ^ 512 - 1), (2, 3, 0), (3, 3, 5)]).regsWf := by decide +kernel

/-- The invariant holds of an idle machine and of a busy one, and both take a step. -/
theorem witness_StepKeepsInvariant : (st 9 [(1, 3, 5)]).Inv ∧ (busySt 0x00000102 9 [(1, 3, 5)]).Inv ∧
    (∃ t, step (st 9 [(1, 3, 5)]) = .next t ∧ decide (t.busy = false) = true) ∧
    (∃ t, step (busySt 0x00000102 9 [(1, 3, 5)]) = .next t ∧ decide (t.x 1 = 9) = true) :=
  ⟨by decide +kernel, by decide +kernel, next_of (by decide +kernel), next_of (by decide +kernel)⟩

theorem witness_ResetMeetsInvariant : (⟨16, 0, ⟨32, 32, 100⟩⟩ : Config).legal ∧
    (⟨1024, 0x20000, ⟨999, 998, 997⟩⟩ : Config).legal := by decide

theorem witness_ResetEffect : (0x00000002 : Word).getLsbD 1 = true ∧ (0x00000003 : Word).getLsbD 1 = true := by decide

theorem witness_ParametersAreFixed :
    ∃ t, step (busySt 0x00000102 9 []) = .next t ∧ decide (t.cfg = cfg16) = true := next_of (by decide +kernel)

/-- The first and the last word of the window; a byte past it, a half word, an odd offset, a burst, below the window. -/
theorem witness_OnlyAdmittedAccessesStep :
    (∀ off ∈ [0, 0x1FFFC], BusMode.single = .single ∧ 4 = 4 ∧ cfg16.base ≤ cfg16.base + off ∧
      cfg16.base + off < cfg16.base + 0x20000 ∧ (cfg16.base + off - cfg16.base) % 4 = 0) ∧
    (∀ a ∈ [(⟨0x60000, 4, .single, .read⟩ : Access), ⟨0x40000, 2, .single, .read⟩, ⟨0x40001, 4, .single, .read⟩,
        ⟨0x40000, 4, .burst, .read⟩, ⟨0x3FFFC, 4, .single, .read⟩],
      ¬(a.mode = .single ∧ a.width = 4 ∧ cfg16.base ≤ a.addr ∧ a.addr < cfg16.base + 0x20000 ∧
        (a.addr - cfg16.base) % 4 = 0)) := by decide

theorem witness_CmdAndArgWhileIdle : (st 9 []).pending = none := rfl

/-- The first and the last REGWORD index, with the machine busy. -/
theorem witness_WritesWhileBusyAreDropped : (busySt 0x00000102 9 []).pending ≠ none ∧ 0 < 1024 ∧ 1023 < 1024 := by decide

theorem witness_ReadsWhileBusy : (busySt 0x00000102 9 []).pending ≠ none ∧ 0 < 1024 ∧ 1023 < 1024 := by decide

/-- j = LEN - 1 (written), j = LEN (not), j = MAXW - 1, MAXW and 1023 (read as 0). -/
theorem witness_RegwordAccess : (st 0 [(1, 3, 5)]).Inv ∧ (st 0 [(1, 3, 5)]).pending = none ∧
    2 < (st 0 [(1, 3, 5)]).len 1 ∧ (st 0 [(1, 3, 5)]).len 1 ≤ 3 ∧ 15 < cfg16.maxw ∧ ¬ 16 < cfg16.maxw ∧
    (st 0 [(1, 3, 5)]).len 1 ≤ 1023 ∧ 1023 < 1024 := by decide +kernel

/-- LEN 0, LEN MAXW, and MAXW + 1; data with reserved bits set, of which bits 10:0 are in range, and are not. -/
theorem witness_ReglenAccess : (st 0 [(1, 3, 5)]).Inv ∧ (st 0 [(1, 3, 5)]).pending = none ∧
    (0 : Word).toNat % 2 ^ 11 ≤ cfg16.maxw ∧ (16 : Word).toNat % 2 ^ 11 ≤ cfg16.maxw ∧
    cfg16.maxw < (17 : Word).toNat % 2 ^ 11 ∧ (0x80000001 : Word).toNat % 2 ^ 11 ≤ cfg16.maxw ∧
    cfg16.maxw < (0xFFFFFFFF : Word).toNat % 2 ^ 11 := by decide +kernel

/-- Both ends of both reserved ranges; CTRL and STATUS data with every reserved bit set. -/
theorem witness_RejectedAccesses :
    (∀ off ∈ [0x018, 0x0FC, 0x140, 0xFFFC],
      off % 4 = 0 ∧ ((0x018 ≤ off ∧ off ≤ 0x0FC) ∨ (0x140 ≤ off ∧ off ≤ 0xFFFC))) ∧
    (∀ off ∈ [0x000, 0x00C], off % 4 = 0 ∧ (off = 0x000 ∨ off = 0x00C)) ∧
    ((0xFFFFFFFC : Word).getLsbD 0 = (st 0 []).ie ∧ (0xFFFFFFFC : Word).getLsbD 1 = false) ∧
    ((0xFFFFFFF5 : Word).getLsbD 1 = false ∧ (0xFFFFFFF5 : Word).getLsbD 3 = false) := by decide

theorem witness_CtrlRegister : (0xFFFFFFFD : Word).getLsbD 1 = false ∧ (0 : Word).getLsbD 1 = false ∧
    (0x00000002 : Word).getLsbD 1 = true := by decide

theorem witness_CapsAndFlagsReads : cfg16.legal ∧ (⟨1024, 0, ⟨53, 59, 101⟩⟩ : Config).legal ∧ (st 0 []).pending = none := by
  decide

theorem witness_CompletionInterrupt : (busySt 0x00000102 9 []).pending ≠ none ∧ (st 9 []).pending = none ∧
    (0x00000002 : Word).getLsbD 1 = true ∧
    (0x00000001 : Word).getLsbD 1 = false ∧ (0x00000000 : Word).getLsbD 1 = false := by decide

/-- A busy machine with a read and no engine turn in its order, and one with a reset in it. -/
theorem witness_AcceptedCommandCompletesOrIsAborted :
    ((busySt 0x00000102 9 []).withInputs [memRead cfg16 0x008]).pending = some ⟨0x00000102, 9⟩ ∧
    ((busySt 0x00000102 9 []).withInputs [memRead cfg16 0x008]).inputsAllowed ∧
    ((busySt 0x00000102 9 []).withInputs [memWrite cfg16 0x004 2]).inputsAllowed := by
  refine ⟨rfl, ?_, ?_⟩
  · intro e he
    obtain rfl : e = memRead cfg16 0x008 := List.mem_singleton.mp he
    decide
  · intro e he
    obtain rfl : e = memWrite cfg16 0x004 2 := List.mem_singleton.mp he
    decide

/-- The value 0 (one word), the largest value (MAXW words), and a value of three words with its writes in descending order. -/
theorem witness_OperandLoadLoads : (st 0 [(1, 3, 5)]).Inv ∧ (st 0 [(1, 3, 5)]).pending = none ∧
    clen 0 ≤ cfg16.maxw ∧ clen (2 ^ 512 - 1) ≤ cfg16.maxw ∧ clen (2 ^ 64 + 5) = 3 ∧
    (loadWords cfg16 1 (toWords 3 (2 ^ 64 + 5)) 0).reverse ≠ loadWords cfg16 1 (toWords 3 (2 ^ 64 + 5)) 0 ∧
    (loadWords cfg16 1 (toWords 3 (2 ^ 64 + 5)) 0).reverse.Perm (loadWords cfg16 1 (toWords 3 (2 ^ 64 + 5)) 0) :=
  ⟨by decide +kernel, rfl, by decide +kernel, by decide +kernel, by decide +kernel, by decide +kernel, List.reverse_perm _⟩

/-- Each pseudo-instruction well-formed, at the ends of the counts of R92, with its sequence on its way after three polls;
a shift of 1 bit to the top of the register, and one out of it. -/
theorem witness_PseudoInstructionsRun : (st 0 [(1, 1, 1)]).Inv ∧ (st 0 [(1, 1, 1)]).pending = none ∧
    (∀ q ∈ [Pseudo.li 2 7, .shl 2 1 1, .shl 2 1 (2 ^ 31 - 1), .shr 2 1 1, .shr 2 1 (2 ^ 31), .btst 1 7, .bset 1 7,
        .sha256 2 1 1, .sha512 2 1 1, .clr 2, .wipe 2, .inv 2 1 1, .c (.divrem 2 3 1 1)],
      q.wellFormed = true ∧ ((st 0 [(1, 1, 1)]).withInputs (q.expand cfg16 3)).inputs = q.expand cfg16 3) ∧
    clen ((st 0 [(1, 1, 1)]).x 1 * 2 ^ 511) ≤ cfg16.maxw ∧ clen ((st 0 [(1, 1, 1)]).x 1 / 2 ^ 1) ≤ cfg16.maxw := by
  decide +kernel

end Sys2Proof.Tests
end

section
/-! SUPPORT. The loops of the commands: what the restoring division computes, and how large the results of the other loops
can become. Every result that a command writes is then representable (R26). -/

namespace Sys2Proof.Machine

/-- The loop of R116 with `i` quotient bits left, the divisor's copy standing `i - 1` bits up: it divides what is left in
`r` and adds the quotient to `q`. -/
theorem divideLoop_eq {b : Nat} (i r q : Nat) (hr : r < b * 2 ^ i) :
    divideLoop i (b * 2 ^ i / 2) r q = (q + r / b, r % b) := by
  induction i generalizing r q with
  | zero =>
    have hr : r < b := by simpa using hr
    simp [divideLoop, Nat.div_eq_of_lt hr, Nat.mod_eq_of_lt hr]
  | succ i ih =>
    have hpow : b * 2 ^ (i + 1) = 2 * (b * 2 ^ i) := by ring
    have hcopy : b * 2 ^ (i + 1) / 2 = b * 2 ^ i := by omega
    rw [hcopy, divideLoop]
    split
    · rename_i hge
      obtain ⟨u, rfl⟩ := Nat.exists_eq_add_of_le hge
      have hb : 0 < b := Nat.pos_of_ne_zero fun h => by simp [h] at hr
      rw [Nat.add_sub_cancel_left, ih _ _ (by omega), Nat.mul_add_div hb, Nat.mul_add_mod, Nat.add_assoc]
    · exact ih _ _ (by omega)

/-- The copy of the divisor that R116 starts from, `bitlen a - bitlen b` bits up, is above half the dividend. -/
theorem lt_mul_two_pow_bitlen {a b : Nat} (hb : 0 < b) : a < b * 2 ^ (bitlen a - bitlen b + 1) := by
  have hlow : 2 ^ (bitlen b - 1) ≤ b := by
    by_contra h
    have := (bitlen_le_iff b (bitlen b - 1)).2 (by omega)
    have : bitlen b = 0 := by omega
    simp [this] at h
    omega
  calc a < 2 ^ bitlen a := lt_two_pow_bitlen a
    _ ≤ 2 ^ (bitlen b - 1 + (bitlen a - bitlen b + 1)) := Nat.pow_le_pow_right (by omega) (by omega)
    _ = 2 ^ (bitlen b - 1) * 2 ^ (bitlen a - bitlen b + 1) := Nat.pow_add ..
    _ ≤ b * 2 ^ (bitlen a - bitlen b + 1) := Nat.mul_le_mul_right _ hlow

/-- R116: quotient and remainder. -/
theorem restoringDivide_eq (a : Nat) {b : Nat} (hb : 0 < b) : restoringDivide a b = (a / b, a % b) := by
  unfold restoringDivide
  split
  · rename_i h
    rw [Nat.div_eq_of_lt h, Nat.mod_eq_of_lt h]
  · have hcopy : b * 2 ^ (bitlen a - bitlen b + 1) / 2 = b * 2 ^ (bitlen a - bitlen b) := by
      rw [Nat.pow_succ, ← Nat.mul_assoc, Nat.mul_div_cancel _ (by omega)]
    have := divideLoop_eq _ a 0 (lt_mul_two_pow_bitlen (a := a) hb)
    rwa [hcopy, Nat.zero_add] at this

/-- R10: a residue is below its modulus. -/
theorem residue_lt (a : Int) {m : Nat} (hm : 0 < m) : residue a m < m := by
  have h0 := Int.emod_nonneg a (b := m) (by omega)
  have h1 := Int.emod_lt_of_pos a (b := m) (by omega)
  unfold residue
  omega

theorem expLoop_le {m : Nat} (g e n acc : Nat) (hm : 0 < m) (h : acc ≤ m) : expLoop g e m n acc ≤ m := by
  induction n generalizing acc with
  | zero => exact h
  | succ n ih =>
    apply ih
    split <;> exact (Nat.mod_lt _ hm).le

/-- R135: the power is at most the modulus; it is the modulus itself for exponent 0 and modulus 1. -/
theorem expMod_le (g e : Nat) {m : Nat} (hm : 0 < m) : expMod g e m ≤ m := expLoop_le g e _ 1 hm hm

theorem gcdLoop_le {B p q : Nat} (n : Nat) (hp : p ≤ B) (hq : q ≤ B) : gcdLoop n p q ≤ B := by
  induction n generalizing p q with
  | zero => exact hp
  | succ n ih =>
    unfold gcdLoop
    split
    · exact hp
    · exact ih hq ((Nat.mod_le p q).trans hp)

/-- R200: the gcd is at most the larger argument. -/
theorem euclid_le (p q : Nat) : euclid p q ≤ max p q := gcdLoop_le _ (le_max_left p q) (le_max_right p q)

/-- What R201 returns for operands at most `B` and modulus `m`: a gcd at most `B` and coefficients below `m`. -/
structure Bezout.Within (B m : Nat) (r : Bezout) : Prop where
  g_le : r.g ≤ B
  s_lt : r.s < m
  t_lt : r.t < m

theorem eeaLoop_within {B m r0 r1 s0 s1 t0 t1 : Nat} (n : Nat) (hr0 : r0 ≤ B) (hr1 : r1 ≤ B) (hs0 : s0 < m) (hs1 : s1 < m)
    (ht0 : t0 < m) (ht1 : t1 < m) : (eeaLoop m n r0 r1 s0 s1 t0 t1).Within B m := by
  induction n generalizing r0 r1 s0 s1 t0 t1 with
  | zero => exact ⟨hr0, hs0, ht0⟩
  | succ n ih =>
    have hm : 0 < m := by omega
    unfold eeaLoop
    split
    · exact ⟨hr0, hs0, ht0⟩
    · exact ih hr1 ((Nat.sub_le _ _).trans hr0) hs1 (residue_lt _ hm) ht1 (residue_lt _ hm)

/-- R201, the degenerate result included. -/
theorem eea_within (a b : Nat) {m : Nat} (hm : 0 < m) : (eea a b m).Within (max a b) m := by
  unfold eea
  split
  · exact ⟨Nat.zero_le _, hm, hm⟩
  · exact eeaLoop_within _ (le_max_left a b) (le_max_right a b) (Nat.mod_lt 1 hm) hm hm (Nat.mod_lt 1 hm)

theorem foldl_shiftIn_lt {w : Nat} (l : List (BitVec w)) {acc k : Nat} (h : acc < 2 ^ k) :
    l.foldl (fun acc x => acc * 2 ^ w + x.toNat) acc < 2 ^ (k + w * l.length) := by
  induction l generalizing acc k with
  | nil => simpa using h
  | cons x l ih =>
    have hstep : acc * 2 ^ w + x.toNat < 2 ^ (k + w) :=
      calc acc * 2 ^ w + x.toNat < acc * 2 ^ w + 2 ^ w := Nat.add_lt_add_left x.isLt _
        _ = (acc + 1) * 2 ^ w := by ring
        _ ≤ 2 ^ k * 2 ^ w := Nat.mul_le_mul_right _ h
        _ = 2 ^ (k + w) := (Nat.pow_add ..).symm
    have := ih hstep
    rwa [Nat.add_assoc, Nat.add_comm w, ← Nat.mul_succ] at this

/-- R179: the digest has eight words of the hash. -/
theorem digestValue_lt {w : Nat} (st : HashState w) : digestValue st < 2 ^ (w * 8) := by
  have := foldl_shiftIn_lt st.toList (acc := 0) (k := 0) (by omega)
  rwa [Nat.zero_add] at this

/-- R150: a value shifted left is below 2 to the number of bits measured before the shift. -/
theorem shiftLeftValue_lt (x n : Nat) : shiftLeftValue x n < 2 ^ shiftedBits x n := by
  unfold shiftLeftValue shiftedBits
  split
  · exact Nat.two_pow_pos _
  · rw [Nat.pow_add]
    exact Nat.mul_lt_mul_of_pos_right (lt_two_pow_bitlen x) (Nat.two_pow_pos n)

/-- R150: the check on the bit count is a check on the value. -/
theorem clen_shiftLeftValue_le {x n m : Nat} (h : wordsForBits (shiftedBits x n) ≤ m) : clen (shiftLeftValue x n) ≤ m := by
  have hm : 1 ≤ m := by unfold wordsForBits at h; omega
  rw [clen_le_iff _ _ hm]
  exact (shiftLeftValue_lt x n).trans_le (Nat.pow_le_pow_right (by omega) ((wordsForBits_le_iff _ _ hm).1 h))

end Sys2Proof.Machine
end

section
/-! SUPPORT. What a command can do: from every state it completes (R224), having written only operand registers and FLAGS,
and what it wrote meets R21 and R22 when the registers met them before. -/

namespace Sys2Proof.Machine

/-- A value that an operand register can hold once the registers meet R21 and R22 (R26). -/
def State.Representable (s : State) (v : Nat) : Prop := 16 ≤ s.cfg.maxw → s.regsWf → clen v ≤ s.cfg.maxw

theorem State.representable_of_clen_le {s : State} {v : Nat} (h : clen v ≤ s.cfg.maxw) : s.Representable v := fun _ _ => h

/-- A value no larger than a register's is representable. -/
theorem State.representable_of_le_x {s : State} {v : Nat} (a : RegId) (h : v ≤ s.x a) : s.Representable v :=
  fun hm hs => (hs a).clen_le (by omega) h

theorem State.representable_of_le_max {s : State} {v : Nat} (a b : RegId) (h : v ≤ max (s.x a) (s.x b)) :
    s.Representable v := by
  rcases le_max_iff.1 h with h | h
  · exact representable_of_le_x a h
  · exact representable_of_le_x b h

/-- The captured ARG is one word (R101). -/
theorem State.representable_argNat (s : State) : s.Representable s.argNat := fun hm _ =>
  (clen_le_iff _ _ (by omega)).2 (s.capturedArg.isLt.trans_le (Nat.pow_le_pow_right (by omega) (by omega)))

/-- `u` is `s` with what a command that began in `s` has written: operand registers, which still meet R21 and R22, and
FLAGS. -/
structure CommandWrote (s u : State) : Prop where
  frame : ∃ regs flags, u = { s with regs := regs, flags := flags }
  keepsWf : 16 ≤ s.cfg.maxw → s.regsWf → u.regsWf

namespace CommandWrote

theorem nothing (s : State) : CommandWrote s s := ⟨⟨s.regs, s.flags, rfl⟩, fun _ hs => hs⟩

variable {s u : State}

theorem cfg_eq (h : CommandWrote s u) : u.cfg = s.cfg := by
  obtain ⟨regs, flags, rfl⟩ := h.frame
  rfl

theorem setReg (h : CommandWrote s u) (d : RegId) {r : Reg} (hr : 16 ≤ s.cfg.maxw → s.regsWf → r.wf s.cfg.maxw) :
    CommandWrote s (u.setReg d r) where
  frame := by
    obtain ⟨regs, flags, rfl⟩ := h.frame
    exact ⟨_, flags, rfl⟩
  keepsWf hm hs := State.regsWf_setReg (h.keepsWf hm hs) d (h.cfg_eq ▸ hr hm hs)

/-- The canonical write of R25. -/
theorem writeValue (h : CommandWrote s u) (d : RegId) {v : Nat} (hv : s.Representable v) :
    CommandWrote s (u.writeValue d v) :=
  h.setReg d fun hm hs => h.cfg_eq.symm ▸ Reg.wf_ofValue_clen (hv hm hs)

theorem setFlags (h : CommandWrote s u) (f : Flags) : CommandWrote s { u with flags := f } where
  frame := by
    obtain ⟨regs, flags, rfl⟩ := h.frame
    exact ⟨regs, f, rfl⟩
  keepsWf hm hs := h.keepsWf hm hs

end CommandWrote

/-- The command that began in `s` has completed (R224), with an error code or without. -/
def CommandEnds (s : State) (o : Host.Outcome State Fault Refusal) : Prop :=
  ∃ u code, o = .next (u.complete code) ∧ CommandWrote s u

namespace CommandEnds

theorem raise (code : ErrCode) (s : State) : CommandEnds s (raise code s) := ⟨s, code, rfl, .nothing s⟩

theorem succeed {s u : State} (h : CommandWrote s u) : CommandEnds s (succeed u) := ⟨u, .ok, rfl, h⟩

variable {s : State} {o o' : Host.Outcome State Fault Refusal} {c : Prop} [Decidable c]

theorem ite (h : c → CommandEnds s o) (h' : ¬c → CommandEnds s o') : CommandEnds s (if c then o else o') := by
  split
  · exact h ‹_›
  · exact h' ‹_›

/-- A check that raises an error, before the rest of a command. -/
theorem check {code : ErrCode} (h : ¬c → CommandEnds s o) : CommandEnds s (if c then Machine.raise code s else o) :=
  ite (fun _ => raise code s) h

/-- A command with one result, written canonically. -/
theorem writeValue (d : RegId) {v : Nat} (hv : s.Representable v) : CommandEnds s (Machine.succeed (s.writeValue d v)) :=
  succeed ((CommandWrote.nothing s).writeValue d hv)

theorem writeT (s : State) (b : Bool) : CommandEnds s (Machine.succeed (s.writeT b)) :=
  succeed ((CommandWrote.nothing s).setFlags _)

theorem writeOrCap (s : State) (d : RegId) (v : Nat) : CommandEnds s (writeOrCap s d v) := by
  obtain ⟨hv, h⟩ | ⟨-, h⟩ := writeOrCap_cases s d v
  · rw [h]; exact writeValue d (State.representable_of_clen_le hv)
  · rw [h]; exact raise .cap s

/-- A command that checks its modulus (R130): the modulus is then positive, and a result up to it is representable. -/
theorem modular {d m : RegId} {v : Nat} (h : 0 < s.x m → v ≤ s.x m) :
    CommandEnds s (if s.x m = 0 then Machine.raise .divzero s else Machine.succeed (s.writeValue d v)) :=
  check fun hm => writeValue d (State.representable_of_le_x m (h (Nat.pos_of_ne_zero hm)))

end CommandEnds

/-! The commands, in the order of the opcode map. -/

theorem execMov_ends (d a : RegId) (s : State) : CommandEnds s (execMov d a s) :=
  .succeed ((CommandWrote.nothing s).setReg d fun _ hs => hs a)

theorem execLdi_ends (d : RegId) (s : State) : CommandEnds s (execLdi d s) := .writeValue d s.representable_argNat

theorem execSub_ends (d a b : RegId) (s : State) : CommandEnds s (execSub d a b s) :=
  .check fun _ => .writeValue d (State.representable_of_le_x a (Nat.sub_le _ _))

/-- The quotient of a division is at most the dividend. -/
theorem State.representable_quotient {s : State} {a b : RegId} (hb : s.x b ≠ 0) :
    s.Representable (restoringDivide (s.x a) (s.x b)).1 := by
  rw [restoringDivide_eq _ (Nat.pos_of_ne_zero hb)]
  exact representable_of_le_x a (Nat.div_le_self _ _)

/-- The remainder of a division is at most the dividend. -/
theorem State.representable_remainder {s : State} {a b : RegId} (hb : s.x b ≠ 0) :
    s.Representable (restoringDivide (s.x a) (s.x b)).2 := by
  rw [restoringDivide_eq _ (Nat.pos_of_ne_zero hb)]
  exact representable_of_le_x a (Nat.mod_le _ _)

theorem execDivq_ends (d a b : RegId) (s : State) : CommandEnds s (execDivq d a b s) :=
  .check fun hb => .writeValue d (State.representable_quotient hb)

theorem execMod_ends (d a b : RegId) (s : State) : CommandEnds s (execMod d a b s) :=
  .check fun hb => .writeValue d (State.representable_remainder hb)

theorem execDivrem_ends (d e a b : RegId) (s : State) : CommandEnds s (execDivrem d e a b s) :=
  .check fun _ => .check fun hb => .succeed <|
    ((CommandWrote.nothing s).writeValue d (State.representable_quotient hb)).writeValue e
      (State.representable_remainder hb)

theorem execAddm_ends (d a b c : RegId) (s : State) : CommandEnds s (execAddm d a b c s) :=
  .modular fun hc => (Nat.mod_lt _ hc).le

theorem execSubm_ends (d a b c : RegId) (s : State) : CommandEnds s (execSubm d a b c s) :=
  .modular fun hc => (residue_lt _ hc).le

theorem execMulm_ends (d a b c : RegId) (s : State) : CommandEnds s (execMulm d a b c s) :=
  .modular fun hc => (Nat.mod_lt _ hc).le

theorem execDivm_ends (d a b c : RegId) (s : State) : CommandEnds s (execDivm d a b c s) :=
  .check fun hc => .check fun _ => .writeValue d <|
    State.representable_of_le_x c (Nat.mod_lt _ (Nat.pos_of_ne_zero hc)).le

theorem execExpm_ends (d a b c : RegId) (s : State) : CommandEnds s (execExpm d a b c s) :=
  .modular fun hc => expMod_le _ _ hc

theorem execShift_ends (d a : RegId) (s : State) : CommandEnds s (execShift d a s) := by
  unfold execShift
  split
  · exact .ite (fun h => .writeValue d (State.representable_of_clen_le (clen_shiftLeftValue_le h)))
      fun _ => .raise .cap s
  · exact .writeOrCap s d _

theorem execSetbit_ends (d : RegId) (s : State) : CommandEnds s (execSetbit d s) :=
  .ite
    (fun h => .succeed <| (CommandWrote.nothing s).setReg d fun _ hs =>
      Reg.wf_setWord (hs d) (Nat.div_lt_of_lt_mul h) _)
    fun _ => .succeed (.nothing s)

/-- R184, R185: the digest of eight words fills the LEN it is written with. -/
theorem runDigest_ends {w : Nat} (p : DigestParams w) (hlen : p.resultLen ≤ 16) (hw : w * 8 = 32 * p.resultLen)
    (d a : RegId) (s : State) : CommandEnds s (runDigest p d a s) :=
  .check fun _ => .check fun _ => .succeed <| (CommandWrote.nothing s).setReg d fun hm _ =>
    Reg.wf_ofValue (hlen.trans hm) (hw ▸ digestValue_lt _)

theorem execEea_ends (d e f a b c : RegId) (s : State) : CommandEnds s (execEea d e f a b c s) :=
  .check fun _ => .check fun hc =>
    have h := eea_within (s.x a) (s.x b) (Nat.pos_of_ne_zero hc)
    .succeed <| (((CommandWrote.nothing s).writeValue d (State.representable_of_le_max a b h.g_le)).writeValue e
      (State.representable_of_le_x c h.s_lt.le)).writeValue f (State.representable_of_le_x c h.t_lt.le)

theorem execMinv_ends (d a c : RegId) (s : State) : CommandEnds s (execMinv d a c s) :=
  .check fun hc =>
    have h := eea_within (s.x c) (s.x a) (Nat.pos_of_ne_zero hc)
    .succeed <| ((CommandWrote.nothing s).writeValue d (State.representable_of_le_x c h.t_lt.le)).setFlags _

/-- R224: every command completes, and writes operand registers and FLAGS only. -/
theorem exec_ends (i : Instr) (s : State) : CommandEnds s (exec i s) := by
  cases i with
  | mov d a => exact execMov_ends d a s
  | ldi d => exact execLdi_ends d s
  | add d a b => exact .writeOrCap s d _
  | sub d a b => exact execSub_ends d a b s
  | mul d a b => exact .writeOrCap s d _
  | divq d a b => exact execDivq_ends d a b s
  | mod d a b => exact execMod_ends d a b s
  | divrem d e a b => exact execDivrem_ends d e a b s
  | addm d a b c => exact execAddm_ends d a b c s
  | subm d a b c => exact execSubm_ends d a b c s
  | mulm d a b c => exact execMulm_ends d a b c s
  | divm d a b c => exact execDivm_ends d a b c s
  | expm d a b c => exact execExpm_ends d a b c s
  | shift d a => exact execShift_ends d a s
  | testbit a => exact .writeT s _
  | setbit d => exact execSetbit_ends d s
  | cmp a b => exact .succeed ((CommandWrote.nothing s).setFlags _)
  | isz a => exact .writeT s _
  | digest256 d a => exact runDigest_ends _ (by decide) rfl d a s
  | digest512 d a => exact runDigest_ends _ (by decide) rfl d a s
  | gcd d a b => exact .writeValue d (State.representable_of_le_max a b (euclid_le _ _))
  | eea d e f a b c => exact execEea_ends d e f a b c s
  | minv d a c => exact execMinv_ends d a c s
  | isprime a => exact .writeT s _

/-- R224, R226: so does a command word, legal or not. -/
theorem runWord_ends (cw : Word) (s : State) : CommandEnds s (runWord cw s) := by
  unfold runWord
  split
  · exact exec_ends _ s
  · exact .raise .illegal s

end Sys2Proof.Machine
end

section
/-! SUPPORT. What a step can do (R6, R63): the engine's turn, a reset, or a host access; and what each leaves unchanged. -/

namespace Sys2Proof.Machine

/-- An engine turn with PENDING full completes the pending command. -/
theorem engineTurn_ends {s : State} {p : Pending} (h : s.pending = some p) : CommandEnds s (engineTurn s) := by
  unfold engineTurn
  rw [h]
  exact runWord_ends p.word s

theorem engineTurn_idle {s : State} (h : s.pending = none) : engineTurn s = .next s := by
  unfold engineTurn
  rw [h]

/-- What the engine's turn can do: nothing with PENDING empty, else a completion. -/
theorem engineTurn_cases (s : State) :
    (s.pending = none ∧ engineTurn s = .next s) ∨ (s.pending ≠ none ∧ CommandEnds s (engineTurn s)) := by
  rcases hp : s.pending with _ | p
  · exact .inl ⟨rfl, engineTurn_idle hp⟩
  · exact .inr ⟨nofun, engineTurn_ends hp⟩

/-- What an admitted access does to the state at the port. -/
def accessEffect (s : State) (a : Access) : State :=
  match a.kind with
  | .read => hostRead s (winReg (a.addr - s.cfg.base))
  | .write v => hostWrite s (winReg (a.addr - s.cfg.base)) v

theorem hostAccess_admitted {s : State} {a : Access} (h : admitted s.cfg a = true) :
    hostAccess a s = .next (accessEffect s a) := by
  unfold hostAccess accessEffect
  rw [if_pos h]
  cases a.kind <;> rfl

theorem hostAccess_refused {s : State} {a : Access} (h : ¬admitted s.cfg a = true) :
    hostAccess a s = .refused .accessNotAdmitted := by
  unfold hostAccess
  rw [if_neg h]

/-- The step from `s` to `t`, by whose move it is. -/
inductive StepTo (s t : State) : Prop
  | engine (u : State) (hu : EngineMoves s u) (h : engineTurn u = .next t)
  | hardReset (rest : List Event) (hs : s.inputs = .hardReset :: rest) (ht : t = (s.withInputs rest).resetDevice)
  | access (a : Access) (rest : List Event) (hs : s.inputs = .access a :: rest) (ha : admitted s.cfg a = true)
      (ht : t = accessEffect (s.withInputs rest) a)

theorem step_cons {s : State} {e : Event} {rest : List Event} (h : s.inputs = e :: rest) :
    step s = takeEvent e (s.withInputs rest) := by
  unfold step
  rw [h]

/-- Whatever a step answers, one of the three moves answers it. -/
theorem stepTo_of_step {s t : State} (h : step s = .next t) : StepTo s t := by
  rcases hs : s.inputs with _ | ⟨_ | _ | _, rest⟩
  case nil =>
    have hu : EngineMoves s s := .inl ⟨hs, rfl⟩
    exact .engine s hu (step_engineMoves hu ▸ h)
  case cons.engine =>
    have hu : EngineMoves s (s.withInputs rest) := .inr ⟨rest, hs, rfl⟩
    exact .engine _ hu (step_engineMoves hu ▸ h)
  case cons.hardReset =>
    rw [step_cons hs] at h
    exact .hardReset rest hs (Host.Outcome.next.inj h).symm
  case cons.access a =>
    rw [step_cons hs] at h
    by_cases ha : admitted s.cfg a = true
    · exact .access a rest hs ha (Host.Outcome.next.inj ((hostAccess_admitted (s := s.withInputs rest) ha).symm.trans h)).symm
    · cases (hostAccess_refused (s := s.withInputs rest) ha).symm.trans h

/-- A machine with no refused access on its way takes a step. -/
theorem exists_step_of_inputsAllowed {s : State} (h : s.inputsAllowed) : ∃ t, step s = .next t := by
  have turn (u : State) : ∃ t, engineTurn u = .next t := by
    obtain ⟨-, hu⟩ | ⟨-, v, code, hu, -⟩ := engineTurn_cases u
    · exact ⟨u, hu⟩
    · exact ⟨_, hu⟩
  rcases hs : s.inputs with _ | ⟨_ | _ | _, rest⟩
  case nil => exact step_engineMoves (.inl ⟨hs, rfl⟩) ▸ turn s
  case cons.engine => exact step_cons hs ▸ turn _
  case cons.hardReset => exact ⟨_, step_cons hs⟩
  case cons.access a =>
    have ha : admitted s.cfg a = true := h (.access a) (by simp [hs])
    exact ⟨_, (step_cons hs).trans (hostAccess_admitted ha)⟩

/-- R59: a read changes nothing but the data read and the draw counter. -/
theorem hostRead_frame (s : State) (w : WinReg) :
    ∃ data draws, hostRead s w = { s with readData := data, draws := draws } := by
  unfold hostRead
  split
  · exact ⟨_, _, rfl⟩
  · exact ⟨_, s.draws, rfl⟩

theorem EngineMoves.cfg_eq {s u : State} (h : EngineMoves s u) : u.cfg = s.cfg := by
  rcases h with ⟨-, rfl⟩ | ⟨rest, -, rfl⟩ <;> rfl

end Sys2Proof.Machine
end

section
/-! The parameters (R7, R204). -/

namespace Sys2Proof.Machine

@[simp] theorem hostRead_cfg (s : State) (w : WinReg) : (hostRead s w).cfg = s.cfg := by
  obtain ⟨data, draws, h⟩ := hostRead_frame s w
  rw [h]

@[simp] theorem writeCtrl_cfg (s : State) (v : Word) : (writeCtrl s v).cfg = s.cfg := by
  unfold writeCtrl
  split <;> rfl

@[simp] theorem writeReglen_cfg (s : State) (r : RegId) (v : Word) : (writeReglen s r v).cfg = s.cfg := by
  unfold writeReglen
  split <;> rfl

@[simp] theorem writeRegword_cfg (s : State) (r : RegId) (j : Nat) (v : Word) : (writeRegword s r j v).cfg = s.cfg := by
  unfold writeRegword
  split <;> rfl

@[simp] theorem hostWrite_cfg (s : State) (w : WinReg) (v : Word) : (hostWrite s w v).cfg = s.cfg := by
  cases w with
  | caps | flags | reserved | status => rfl
  | ctrl => exact writeCtrl_cfg s v
  | arg | cmd => simp only [hostWrite]; split <;> rfl
  | reglen | regword => simp only [hostWrite]; split <;> simp

@[simp] theorem accessEffect_cfg (s : State) (a : Access) : (accessEffect s a).cfg = s.cfg := by
  unfold accessEffect
  split <;> simp

theorem engineTurn_cfg {s t : State} (h : engineTurn s = .next t) : t.cfg = s.cfg := by
  obtain ⟨-, hs⟩ | ⟨-, u, code, hs, hu⟩ := engineTurn_cases s
  · cases hs.symm.trans h
    rfl
  · cases hs.symm.trans h
    exact hu.cfg_eq

/-- Settles O46: each of the three moves keeps the parameters. -/
theorem parametersAreFixed : Obligations.ParametersAreFixed := by
  intro s t h
  rcases stepTo_of_step h with ⟨u, hu, h⟩ | ⟨rest, -, rfl⟩ | ⟨a, rest, -, -, rfl⟩
  · exact (engineTurn_cfg h).trans hu.cfg_eq
  · rfl
  · exact accessEffect_cfg _ a

end Sys2Proof.Machine
end

section
/-! The invariant (R7, R21, R22, R39, R65, R222, R230), operation by operation. -/

namespace Sys2Proof.Machine

namespace State.Inv

variable {s u : State}

theorem withInputs (h : s.Inv) (l : List Event) : (s.withInputs l).Inv := h

theorem engineMoves (h : s.Inv) (hu : EngineMoves s u) : u.Inv := by
  rcases hu with ⟨-, rfl⟩ | ⟨rest, -, rfl⟩ <;> exact h

theorem resetDevice (h : s.Inv) : s.resetDevice.Inv := ⟨h.1, State.regsWf_resetOf s.cfg, .inl rfl⟩

theorem setHerr (h : s.Inv) : s.setHerr.Inv := h

/-- A completion empties PENDING. -/
theorem complete (h : s.Inv) (hu : CommandWrote s u) (code : ErrCode) : (u.complete code).Inv := by
  obtain ⟨hcfg, hregs, -⟩ := h
  exact ⟨hu.cfg_eq.symm ▸ hcfg, hu.keepsWf hcfg.1 hregs, .inl rfl⟩

theorem engineTurn {t : State} (h : s.Inv) (ht : engineTurn s = .next t) : t.Inv := by
  obtain ⟨-, hs⟩ | ⟨-, u, code, hs, hu⟩ := engineTurn_cases s
  · cases hs.symm.trans ht
    exact h
  · cases hs.symm.trans ht
    exact h.complete hu code

theorem hostRead (h : s.Inv) (w : WinReg) : (hostRead s w).Inv := by
  obtain ⟨data, draws, hr⟩ := hostRead_frame s w
  rw [hr]
  exact h

theorem writeCtrl (h : s.Inv) (v : Word) : (writeCtrl s v).Inv := by
  unfold Machine.writeCtrl
  split
  · exact h.resetDevice
  · exact h

/-- A STATUS write clears DONE and HERR, which leaves DONE 0 while PENDING is full. -/
theorem writeStatus (h : s.Inv) (v : Word) : (writeStatus s v).Inv := by
  obtain ⟨hcfg, hregs, hp | ⟨hp, hdone, herr⟩⟩ := h
  · exact ⟨hcfg, hregs, .inl hp⟩
  · exact ⟨hcfg, hregs, .inr ⟨hp, by simp [Machine.writeStatus, hdone], herr⟩⟩

/-- R222: an acceptance fills PENDING with the word that CMD then reads and with ARG, and clears DONE and ERRCODE. -/
theorem accept (h : s.Inv) (cw : Word) : (s.accept cw).Inv := ⟨h.1, h.2.1, .inr ⟨rfl, rfl, rfl⟩⟩

theorem setReg (h : s.Inv) (r : RegId) {x : Reg} (hx : x.wf s.cfg.maxw) : (s.setReg r x).Inv :=
  ⟨h.1, State.regsWf_setReg h.2.1 r hx, h.2.2⟩

theorem writeReglen (h : s.Inv) (r : RegId) (v : Word) : (writeReglen s r v).Inv := by
  unfold Machine.writeReglen
  split
  · rename_i hn
    exact h.setReg r (Reg.wf_setLen (h.2.1 r) hn)
  · exact h.setHerr

theorem writeRegword (h : s.Inv) (r : RegId) (j : Nat) (v : Word) : (writeRegword s r j v).Inv := by
  unfold Machine.writeRegword
  split
  · rename_i hj
    exact h.setReg r (Reg.wf_setWord (h.2.1 r) hj.2 v)
  · exact h.setHerr

/-- R58, R65: a write that is dropped while BUSY = 1 sets HERR only; while BUSY = 0, `t` need only meet the invariant with
PENDING empty. -/
theorem unlessBusy {t : State} (h : s.Inv) (ht : s.pending = none → t.Inv) : (if s.busy then s.setHerr else t).Inv := by
  split
  · exact h.setHerr
  · rename_i hb
    exact ht (by simpa [State.busy] using hb)

theorem hostWrite (h : s.Inv) (w : WinReg) (v : Word) : (hostWrite s w v).Inv := by
  cases w with
  | caps | flags | reserved => exact h.setHerr
  | ctrl => exact h.writeCtrl v
  | status => exact h.writeStatus v
  | arg => exact h.unlessBusy fun hp => ⟨h.1, h.2.1, .inl hp⟩
  | cmd => exact h.unlessBusy fun _ => h.accept v
  | reglen r => exact h.unlessBusy fun _ => h.writeReglen r v
  | regword r j => exact h.unlessBusy fun _ => h.writeRegword r j v

theorem accessEffect (h : s.Inv) (a : Access) : (accessEffect s a).Inv := by
  unfold Machine.accessEffect
  split
  · exact h.hostRead _
  · exact h.hostWrite _ _

end State.Inv

/-- Settles O42: each of the three moves keeps the invariant. -/
theorem stepKeepsInvariant : Obligations.StepKeepsInvariant := by
  intro s t hs h
  rcases stepTo_of_step h with ⟨u, hu, h⟩ | ⟨rest, -, rfl⟩ | ⟨a, rest, -, -, rfl⟩
  · exact (hs.engineMoves hu).engineTurn h
  · exact (hs.withInputs rest).resetDevice
  · exact (hs.withInputs rest).accessEffect a

end Sys2Proof.Machine
end

section
/-! An accepted command (R65, R224, R251): while PENDING is full the host cannot touch the registers and FLAGS the command
will run on, so it waits, completes, or is aborted by a reset. -/

namespace Sys2Proof.Machine

/-- What R65 keeps while PENDING is full: PENDING itself, the operand registers, FLAGS, and with them the parameters and the
input order. -/
structure Waits (s t : State) : Prop where
  pending : t.pending = s.pending
  regs : t.regs = s.regs
  flags : t.flags = s.flags
  cfg : t.cfg = s.cfg
  inputs : t.inputs = s.inputs

theorem hostRead_waits (s : State) (w : WinReg) : Waits s (hostRead s w) := by
  obtain ⟨data, draws, h⟩ := hostRead_frame s w
  rw [h]
  exact ⟨rfl, rfl, rfl, rfl, rfl⟩

theorem setHerr_waits (s : State) : Waits s s.setHerr := ⟨rfl, rfl, rfl, rfl, rfl⟩

/-- R33, R58: a write while BUSY = 1 is a soft reset, or the command goes on waiting. -/
theorem hostWrite_busy {s : State} (h : s.busy = true) (w : WinReg) (v : Word) :
    (w = .ctrl ∧ v.getLsbD 1 = true ∧ hostWrite s w v = s.resetDevice) ∨ Waits s (hostWrite s w v) := by
  cases w with
  | caps | flags | reserved => exact .inr (setHerr_waits s)
  | arg | cmd | reglen | regword => exact .inr (by simp only [hostWrite, if_pos h]; exact setHerr_waits s)
  | status => exact .inr ⟨rfl, rfl, rfl, rfl, rfl⟩
  | ctrl =>
    by_cases hv : v.getLsbD 1 = true
    · exact .inl ⟨rfl, hv, if_pos hv⟩
    · have hw : hostWrite s .ctrl v = { s with ie := v.getLsbD 0 } := if_neg hv
      exact .inr (hw ▸ ⟨rfl, rfl, rfl, rfl, rfl⟩)

/-- R53: CTRL is at the offset 0x004 alone. -/
theorem eq_of_winReg_ctrl {off : Nat} (h : winReg off = .ctrl) : off = 0x004 := by
  unfold winReg at h
  by_contra hne
  rw [if_neg hne] at h
  split_ifs at h

/-- The event is a reset: RST, or a CTRL write with bit 1 set. -/
def Event.Resets (c : Config) (e : Event) : Prop :=
  e = .hardReset ∨ ∃ v : Word, v.getLsbD 1 = true ∧ e = memWrite c 0x004 v

/-- R51: an admitted write that reaches CTRL is `memWrite` of CTRL. -/
theorem access_eq_memWrite_ctrl {c : Config} {a : Access} {v : Word} (ha : admitted c a = true) (hk : a.kind = .write v)
    (hw : winReg (a.addr - c.base) = .ctrl) : Event.access a = memWrite c 0x004 v := by
  obtain ⟨hmode, hwidth, hbase, -, -⟩ := (admitted_iff c a).1 ha
  have haddr : a.addr = c.base + 0x004 := by
    have := eq_of_winReg_ctrl hw
    omega
  obtain ⟨addr, width, mode, kind⟩ := a
  subst hmode hwidth hk haddr
  rfl

/-- An admitted access while BUSY = 1 resets the machine, or the command goes on waiting. -/
theorem accessEffect_busy {s : State} {a : Access} (h : s.busy = true) (ha : admitted s.cfg a = true) :
    ((Event.access a).Resets s.cfg ∧ accessEffect s a = s.resetDevice) ∨ Waits s (accessEffect s a) := by
  unfold accessEffect
  split
  · exact .inr (hostRead_waits s _)
  · rename_i v hk
    obtain ⟨hw, hv, ht⟩ | ht := hostWrite_busy h (winReg (a.addr - s.cfg.base)) v
    · exact .inl ⟨.inr ⟨v, hv, access_eq_memWrite_ctrl ha hk hw⟩, ht⟩
    · exact .inr ht

/-- The command pending in `s` has completed in `t`, on the registers and FLAGS of `s`. -/
def CompletesOn (s t : State) : Prop :=
  t.done = true ∧ ∃ u : State, u.regs = s.regs ∧ u.flags = s.flags ∧ u.cfg = s.cfg ∧ u.pending = s.pending ∧
    engineTurn u = .next t

/-- The machine has been reset in `t`. -/
def IsReset (s t : State) : Prop := t.done = false ∧ t.regs = (State.resetOf s.cfg).regs

/-- R65, R224, R251: one step of a machine with PENDING full completes the command, aborts it, or leaves it waiting with one
input fewer. -/
theorem busy_step {s : State} (hp : s.pending ≠ none) (hin : s.inputsAllowed) : ∃ t, step s = .next t ∧
    ((t.pending = none ∧ CompletesOn s t) ∨
      (t.pending = none ∧ IsReset s t ∧ ∃ e, s.inputs[0]? = some e ∧ e.Resets s.cfg) ∨
      ∃ e rest, s.inputs = e :: rest ∧ Waits (s.withInputs rest) t) := by
  obtain ⟨t, h⟩ := exists_step_of_inputsAllowed hin
  refine ⟨t, h, ?_⟩
  rcases stepTo_of_step h with ⟨u, hu, h⟩ | ⟨rest, hs, rfl⟩ | ⟨a, rest, hs, ha, rfl⟩
  · have hup := engineMoves_pending hu
    have hur : u.regs = s.regs ∧ u.flags = s.flags := by
      rcases hu with ⟨-, rfl⟩ | ⟨rest, -, rfl⟩ <;> exact ⟨rfl, rfl⟩
    obtain ⟨hn, -⟩ | ⟨-, v, code, hv, -⟩ := engineTurn_cases u
    · exact absurd (hup.symm.trans hn) hp
    · cases hv.symm.trans h
      exact .inl ⟨rfl, rfl, u, hur.1, hur.2, hu.cfg_eq, hup, h⟩
  · exact .inr (.inl ⟨rfl, ⟨rfl, rfl⟩, .hardReset, by simp [hs], .inl rfl⟩)
  · have hb : (s.withInputs rest).busy = true := Option.isSome_iff_ne_none.2 hp
    obtain ⟨hr, ht⟩ | ht := accessEffect_busy hb ha
    · exact .inr (.inl ⟨ht ▸ rfl, ht ▸ ⟨rfl, rfl⟩, .access a, by simp [hs], hr⟩)
    · exact .inr (.inr ⟨.access a, rest, hs, ht⟩)

/-- R262: a pending command completes or is aborted at the latest one step after the last input; the input taken in the last
step stands at index `k`. -/
theorem busy_run {s : State} (hp : s.pending ≠ none) (hin : s.inputsAllowed) :
    ∃ k t, k ≤ s.inputs.length ∧ Sys2Proof.core.run (k + 1) s = .next t ∧ t.pending = none ∧
      (CompletesOn s t ∨ (IsReset s t ∧ ∃ e, s.inputs[k]? = some e ∧ e.Resets s.cfg)) := by
  induction hl : s.inputs generalizing s with
  | nil =>
    obtain ⟨t, h, ⟨hn, ht⟩ | ⟨hn, ht, he⟩ | ⟨e, rest, hs, -⟩⟩ := busy_step hp hin
    · exact ⟨0, t, Nat.zero_le _, run_succ h 0, hn, .inl ht⟩
    · exact ⟨0, t, Nat.zero_le _, run_succ h 0, hn, .inr ⟨ht, hl ▸ he⟩⟩
    · cases hl.symm.trans hs
  | cons e rest ih =>
    obtain ⟨t, h, ⟨hn, ht⟩ | ⟨hn, ht, he⟩ | ⟨e', rest', hs, ht⟩⟩ := busy_step hp hin
    · exact ⟨0, t, Nat.zero_le _, run_succ h 0, hn, .inl ht⟩
    · exact ⟨0, t, Nat.zero_le _, run_succ h 0, hn, .inr ⟨ht, hl ▸ he⟩⟩
    · cases hl.symm.trans hs
      obtain ⟨hpend, hregs, hflags, hcfg, hinputs⟩ := ht
      rw [State.withInputs_inputs] at hinputs
      have hin' : t.inputsAllowed := fun e' he' => by
        rw [hcfg]
        exact hin e' (hl ▸ .tail e (hinputs ▸ he'))
      obtain ⟨k, t', hk, hrun, hn, ht'⟩ := ih (hpend ▸ hp) hin' hinputs
      refine ⟨k + 1, t', Nat.succ_le_succ hk, (run_succ h _).trans hrun, hn, ?_⟩
      unfold CompletesOn IsReset at ht' ⊢
      rw [hregs, hflags, hcfg, hpend] at ht'
      exact ht'

/-- Settles O58, by induction over the inputs: `busy_run`. -/
theorem acceptedCommandCompletesOrIsAborted : Obligations.AcceptedCommandCompletesOrIsAborted := by
  intro s p hp hin
  obtain ⟨k, t, hk, hrun, hn, ht⟩ := busy_run (by simp [hp]) hin
  refine ⟨k + 1, t, Nat.succ_le_succ hk, hrun, hn, ?_⟩
  rcases ht with ⟨hdone, u, hregs, hflags, hcfg, hpend, hu⟩ | ⟨⟨hdone, hregs⟩, e, he, rfl | ⟨v, hv, rfl⟩⟩
  · exact .inl ⟨hdone, u, hregs, hflags, hcfg, hpend.trans hp, hu⟩
  · exact .inr ⟨hdone, hregs, .inl he⟩
  · exact .inr ⟨hdone, hregs, .inr ⟨v, hv, he⟩⟩

end Sys2Proof.Machine
end

section
/-! SUPPORT. Host accesses as steps, by what the accessed entry does: a read that R58 makes no draw of, and the value a
register has after each write of the window. -/

namespace Sys2Proof.Machine

@[simp] theorem winRead_withInputs (s : State) (l : List Event) (w : WinReg) : winRead (s.withInputs l) w = winRead s w := by
  cases w <;> rfl

/-- R59: a read of which R58 makes no draw gives the entry's value, and changes nothing else. -/
theorem step_memRead_plain (s : State) (rest : List Event) {off : Nat} (h : off < 0x20000) (h4 : off % 4 = 0)
    (hd : s.pending = none ∨ drawnWhileBusy (winReg off) = false) :
    step { s with inputs := memRead s.cfg off :: rest } =
      .next { s with inputs := rest, readData := some (winRead s (winReg off)) } := by
  have hno : ((s.withInputs rest).busy && drawnWhileBusy (winReg off)) = false := by
    rcases hd with hd | hd <;> simp [State.busy, hd]
  rw [step_memRead s rest h h4, hostRead, hno, winRead_withInputs]
  rfl

theorem step_hardReset (s : State) (rest : List Event) :
    step { s with inputs := .hardReset :: rest } = .next (s.withInputs rest).resetDevice := rfl

theorem hostWrite_ctrl_reset (s : State) {v : Word} (h : v.getLsbD 1 = true) : hostWrite s .ctrl v = s.resetDevice := if_pos h

theorem hostWrite_ctrl_ie (s : State) {v : Word} (h : v.getLsbD 1 = false) :
    hostWrite s .ctrl v = { s with ie := v.getLsbD 0 } := if_neg (Bool.eq_false_iff.1 h)

theorem not_busy_of_idle {s : State} (h : s.pending = none) : ¬s.busy = true := by simp [State.busy, h]

theorem hostWrite_arg_idle {s : State} (h : s.pending = none) (v : Word) : hostWrite s .arg v = { s with arg := v } :=
  if_neg (not_busy_of_idle h)

theorem hostWrite_cmd_idle {s : State} (h : s.pending = none) (v : Word) : hostWrite s .cmd v = s.accept v :=
  if_neg (not_busy_of_idle h)

theorem hostWrite_reglen_idle {s : State} (h : s.pending = none) (r : RegId) (v : Word) :
    hostWrite s (.reglen r) v = writeReglen s r v :=
  if_neg (not_busy_of_idle h)

theorem writeReglen_of_le {s : State} {v : Word} (h : reglenField v ≤ s.cfg.maxw) (r : RegId) :
    writeReglen s r v = s.setReg r ((s.reg r).setLen (reglenField v)) := if_pos h

theorem writeReglen_of_lt {s : State} {v : Word} (h : s.cfg.maxw < reglenField v) (r : RegId) :
    writeReglen s r v = s.setHerr := if_neg (Nat.not_le.2 h)

/-- R55: after a LEN write the words below the new LEN are those before, and the others are 0. -/
theorem Reg.word_setLen {m n : Nat} {r : Reg} (h : r.wf m) (hn : n ≤ m) (j : Nat) :
    (r.setLen n).word j = if j < n then r.word j else 0 := by
  have hlen : (r.w.take n).length = n := by simp [h.2.1, hn]
  simp only [Reg.setLen, Reg.word, List.getD_eq_getElem?_getD]
  split
  · rw [List.getElem?_append_left (by omega), List.getElem?_take_of_lt (by assumption)]
  · rw [List.getElem?_append_right (by omega), List.getElem?_replicate]
    split <;> rfl

theorem RegsKept_setReg (s : State) (r : RegId) (x : Reg) : RegsKept [r] s (s.setReg r x) := fun k hk => by
  rw [State.reg_setReg, if_neg (by simpa using hk)]

/-- R55: what a LEN write leaves of its register, and that it leaves the others. -/
theorem State.setLen_effect {s : State} (h : s.regsWf) (r : RegId) {n : Nat} (hn : n ≤ s.cfg.maxw) :
    let t := s.setReg r ((s.reg r).setLen n)
    t.len r = n ∧ (∀ j, j < n → t.word r j = s.word r j) ∧ (∀ j, n ≤ j → t.word r j = 0) ∧
      t.x r = s.x r % 2 ^ (32 * n) ∧ RegsKept [r] s t := by
  intro t
  have hreg : t.reg r = (s.reg r).setLen n := by simp [t]
  refine ⟨congrArg Reg.len hreg, fun j hj => ?_, fun j hj => ?_, ?_, RegsKept_setReg s r _⟩
  · rw [State.word, hreg, Reg.word_setLen (h r) hn, if_pos hj]
    rfl
  · rw [State.word, hreg, Reg.word_setLen (h r) hn, if_neg (by omega)]
  · rw [State.x, hreg, Reg.value_setLen (h r) hn]
    rfl

end Sys2Proof.Machine
end

section
/-! The value of a register (R23) and the state after reset (R42, R251). -/

namespace Sys2Proof.Machine

/-- R9, R23: the value of a list of words is their weighted sum. -/
theorem valueOf_eq_sum (ws : List Word) :
    valueOf ws = ∑ j ∈ Finset.range ws.length, (ws.getD j 0).toNat * 2 ^ (32 * j) := by
  induction ws with
  | nil => rfl
  | cons w ws ih =>
    have hshift (j : Nat) : (ws.getD j 0).toNat * 2 ^ (32 * (j + 1)) = 2 ^ 32 * ((ws.getD j 0).toNat * 2 ^ (32 * j)) := by
      ring
    simp only [List.length_cons, Finset.sum_range_succ', List.getD_cons_succ, List.getD_cons_zero, hshift]
    rw [valueOf, ih, Finset.mul_sum, Nat.mul_zero, Nat.pow_zero, Nat.mul_one, Nat.add_comm]

/-- Settles O41: `valueOf_eq_sum` over the MAXW words of R21. -/
theorem valueIsSumOfWords : Obligations.ValueIsSumOfWords := by
  intro s i hs
  have hlen : (s.reg i).w.length = s.cfg.maxw := (hs i).2.1
  exact ⟨hlen ▸ valueOf_eq_sum (s.reg i).w, (hs i).value_lt_len⟩

/-- R204: three numbers folded into the range 32 .. 999 give a legal MR_TAIL. -/
theorem MrTail.legal_of_range {a b c : Nat} (ha : 31 < a ∧ a ≤ 999) (hb : 31 < b ∧ b ≤ 999) (hc : 31 < c ∧ c ≤ 999) :
    (if 100 ≤ max a (max b c) then (⟨a, b, c⟩ : MrTail) else ⟨a, b, 100 + c % 900⟩).legal := by
  split <;> (dsimp only [MrTail.legal]; omega)

/-- Whatever the free value is, it gives a legal MR_TAIL. -/
theorem legal_fromFree (r : Nat × Nat × Nat) : (MrTail.fromFree r).legal := by
  have fold (n : Nat) : 31 < (if 31 < n ∧ n ≤ 999 then n else 32 + n % 968) ∧
      (if 31 < n ∧ n ≤ 999 then n else 32 + n % 968) ≤ 999 := by
    split <;> omega
  exact MrTail.legal_of_range (fold r.1) (fold r.2.1) (fold r.2.2)

theorem legal_suggested : Config.suggested.legal := ⟨by decide, by decide, rfl, legal_fromFree _⟩

theorem inv_resetOf {c : Config} (h : c.legal) : (State.resetOf c).Inv := ⟨h, State.regsWf_resetOf c, .inl rfl⟩

/-- Settles O43: `inv_resetOf`, for the build of `State.reset` by `legal_suggested`. -/
theorem resetMeetsInvariant : Obligations.ResetMeetsInvariant := ⟨fun _ => inv_resetOf, inv_resetOf legal_suggested⟩

/-- R42: every word of the empty register is 0, in its storage and outside. -/
theorem Reg.word_empty (m j : Nat) : (Reg.empty m).word j = 0 := by
  simp only [Reg.word, Reg.empty, List.getD_eq_getElem?_getD, List.getElem?_replicate]
  split <;> rfl

/-- Settles O44: each register is the empty register of `Reg.word_empty`, and the other fields are as R42 lists them. -/
theorem resetValues : Obligations.ResetValues := by
  intro c
  refine ⟨fun i => ?_, rfl, rfl, rfl, rfl, rfl, rfl, rfl, rfl, rfl⟩
  have hreg := State.reg_resetOf c i
  refine ⟨congrArg Reg.len hreg, ?_, fun j => ?_⟩
  · rw [State.x, hreg, Reg.value_empty]
  · rw [State.word, hreg, Reg.word_empty]

end Sys2Proof.Machine
end

section
/-! The control registers and REGLEN (R30 to R37, R40, R55, R220, R222, R235). -/

namespace Sys2Proof.Machine

/-- Settles O48: a CMD write while BUSY = 0 is `State.accept`. -/
theorem cmdAndArgWhileIdle : Obligations.CmdAndArgWhileIdle := by
  intro s v rest hp
  have hp' : (s.withInputs rest).pending = none := hp
  refine ⟨⟨(s.withInputs rest).accept v, ?_, rfl, rfl, rfl, ?_⟩, ?_, ?_, ?_⟩
  · exact (step_memWrite s rest v (by omega) rfl).trans (congrArg _ (hostWrite_cmd_idle hp' v))
  · exact Bool.and_false _
  · exact (step_memWrite s rest v (by omega) rfl).trans (congrArg _ (hostWrite_arg_idle hp' v))
  · exact step_memRead_plain s rest (by omega) rfl (.inl hp)
  · exact step_memRead_plain s rest (by omega) rfl (.inl hp)

/-- Settles O52: a write of n at most MAXW is the LEN write of `State.setLen_effect`. -/
theorem reglenAccess : Obligations.ReglenAccess := by
  rintro s rest r v n ⟨⟨-, hmax, -⟩, hwf, -⟩ hp rfl
  have hr := r.isLt
  have hwrite : step { s with inputs := memWrite s.cfg (0x100 + 4 * r.val) v :: rest } =
      .next (writeReglen (s.withInputs rest) r v) := by
    rw [step_memWrite s rest v (by omega) (by omega), winReg_reglen, hostWrite_reglen_idle (s := s.withInputs rest) hp]
  refine ⟨?_, fun hle => ?_, fun hlt => ?_⟩
  · have hlen : s.len r % 2 ^ 11 = s.len r := Nat.mod_eq_of_lt (by have := (hwf r).1; unfold State.len; omega)
    rw [step_memRead_plain s rest (by omega) (by omega) (.inl hp), winReg_reglen, winRead, hlen]
  · obtain ⟨hlen, hlow, hhigh, hx, hkept⟩ := State.setLen_effect (s := s.withInputs rest) hwf r hle
    exact ⟨_, hwrite.trans (congrArg _ (writeReglen_of_le (s := s.withInputs rest) hle r)), hlen, hlow,
      fun j hj _ => hhigh j hj, hx, hkept, rfl⟩
  · exact hwrite.trans (congrArg _ (writeReglen_of_lt (s := s.withInputs rest) hlt r))

/-- A word made of a number below 2^k has no bit from k up. -/
theorem getLsbD_ofNat_eq_false {v k i : Nat} (hv : v < 2 ^ k) (hi : k ≤ i) : (BitVec.ofNat 32 v).getLsbD i = false := by
  rw [BitVec.getLsbD_ofNat, Nat.testBit_eq_false_of_lt (hv.trans_le (Nat.pow_le_pow_right (by omega) hi)), Bool.and_false]

/-- R33: IE is bit 0 of CTRL. -/
theorem ctrlWord_bits (s : State) : (ctrlWord s).getLsbD 0 = s.ie ∧ ∀ i, 1 ≤ i → (ctrlWord s).getLsbD i = false := by
  refine ⟨?_, fun i hi => getLsbD_ofNat_eq_false (Bool.toNat_lt s.ie) hi⟩
  unfold ctrlWord
  cases s.ie <;> rfl

/-- Settles O54: CTRL reads as `ctrlWord_bits` says, and a write is a reset or sets IE. -/
theorem ctrlRegister : Obligations.CtrlRegister := by
  intro s rest v
  have hwrite := step_memWrite s rest (off := 0x004) v (by omega) rfl
  refine ⟨⟨ctrlWord s, step_memRead_plain s rest (by omega) rfl (.inr rfl), ctrlWord_bits s⟩, fun hv => ?_, fun hv => ?_⟩
  · exact hwrite.trans (congrArg _ (hostWrite_ctrl_ie _ hv))
  · exact hwrite.trans (congrArg _ (hostWrite_ctrl_reset _ hv))

/-- R34: the fields of a word laid out as STATUS is, for the codes 0 to 5 of R220. -/
theorem statusLayout_fields : ∀ b d e h : Bool, ∀ c < 6,
    let x : Word := BitVec.ofNat 32 (b.toNat + 2 * d.toNat + 4 * e.toNat + 8 * h.toNat + 2 ^ 8 * c)
    x.getLsbD 0 = b ∧ x.getLsbD 1 = d ∧ x.getLsbD 2 = e ∧ x.getLsbD 3 = h ∧ x.extractLsb' 4 4 = 0 ∧
      x.extractLsb' 8 8 = BitVec.ofNat 8 c ∧ x.extractLsb' 16 16 = 0 := by
  decide

theorem ErrCode.code_lt (e : ErrCode) : e.code < 6 := by cases e <;> decide

/-- R235: a mask bit clears its flag. -/
theorem and_not_eq_ite (b m : Bool) : (b && !m) = if m then false else b := by cases m <;> simp

/-- Settles O55: STATUS reads as `statusLayout_fields` says. -/
theorem statusRegister : Obligations.StatusRegister := by
  intro s rest v
  refine ⟨⟨statusWord s, step_memRead_plain s rest (by omega) rfl (.inr rfl), ?_⟩, ?_⟩
  · obtain ⟨hbusy, hdone, herr, hherr, hlow, hcode, hhigh⟩ :=
      statusLayout_fields s.busy s.done s.err s.herr s.errcode.code s.errcode.code_lt
    refine ⟨hbusy, hdone, herr.trans ?_, hherr, hlow, hcode.trans ?_, hhigh⟩
    · unfold State.err; cases s.errcode <;> rfl
    · cases s.errcode <;> rfl
  · rw [step_memWrite s rest v (by omega) rfl, ← and_not_eq_ite, ← and_not_eq_ite]
    rfl

/-- R32: the fields of CAPS, for a MAXW of 16 bits. -/
theorem capsWord_fields {c : Config} (h : c.maxw < 2 ^ 16) : (capsWord c).extractLsb' 0 8 = 16 ∧
    (capsWord c).extractLsb' 8 8 = 0 ∧ ((capsWord c).extractLsb' 16 16).toNat = c.maxw := by
  have hcaps : (capsWord c).toNat = 16 + 2 ^ 16 * c.maxw := by
    rw [capsWord, BitVec.toNat_ofNat]; omega
  have field (lo n : Nat) : ((capsWord c).extractLsb' lo n).toNat = (16 + 2 ^ 16 * c.maxw) / 2 ^ lo % 2 ^ n := by
    rw [BitVec.extractLsb'_toNat, hcaps, Nat.shiftRight_eq_div_pow]
  refine ⟨BitVec.eq_of_toNat_eq ((field 0 8).trans ?_), BitVec.eq_of_toNat_eq ((field 8 8).trans ?_),
    (field 16 16).trans ?_⟩
  · show _ = 16
    omega
  · show _ = 0
    omega
  · omega

/-- R30: the flags are the four lowest bits of FLAGS, LT first. -/
theorem flags_toWord_bits (f : Flags) : f.toWord.getLsbD 0 = f.lt ∧ f.toWord.getLsbD 1 = f.eq ∧
    f.toWord.getLsbD 2 = f.gt ∧ f.toWord.getLsbD 3 = f.t ∧ ∀ i, 4 ≤ i → f.toWord.getLsbD i = false := by
  have low : ∀ lt eq gt t : Bool, let x := (Flags.mk lt eq gt t).toWord
      x.getLsbD 0 = lt ∧ x.getLsbD 1 = eq ∧ x.getLsbD 2 = gt ∧ x.getLsbD 3 = t := by decide
  obtain ⟨h0, h1, h2, h3⟩ := low f.lt f.eq f.gt f.t
  refine ⟨h0, h1, h2, h3, fun i hi => getLsbD_ofNat_eq_false ?_ hi⟩
  have := f.lt.toNat_lt; have := f.eq.toNat_lt; have := f.gt.toNat_lt; have := f.t.toNat_lt
  omega

/-- Settles O56 by `capsWord_fields` and `flags_toWord_bits`. -/
theorem capsAndFlagsReads : Obligations.CapsAndFlagsReads := by
  rintro s rest ⟨-, hmax, -⟩
  refine ⟨⟨capsWord s.cfg, step_memRead_plain s rest (by omega) rfl (.inr rfl), capsWord_fields (by omega)⟩, fun hp => ?_⟩
  exact ⟨s.flags.toWord, step_memRead_plain s rest (by omega) rfl (.inl hp), flags_toWord_bits s.flags⟩

theorem irq_eq_false_of_done {s : State} (h : s.done = false) : s.irq = false := by simp [State.irq, h]

/-- R227: a completion sets DONE and keeps IE, so IRQ becomes IE. -/
theorem CommandWrote.irq_complete {s u : State} (h : CommandWrote s u) (code : ErrCode) : (u.complete code).irq = s.ie := by
  obtain ⟨regs, flags, rfl⟩ := h.frame
  exact Bool.and_true _

/-- Settles O57: each move of the machine that touches IE or DONE, one by one. -/
theorem completionInterrupt : Obligations.CompletionInterrupt := by
  intro s rest v
  have hctrl := step_memWrite s rest (off := 0x004) v (by omega) rfl
  refine ⟨Bool.and_eq_true_iff, fun hp => ?_, fun hv => ?_, fun hp => ?_, ?_, fun hv => ?_, fun hv => ?_⟩
  · obtain ⟨p, hp⟩ := Option.ne_none_iff_exists'.1 hp
    obtain ⟨u, code, hu, hw⟩ := engineTurn_ends (s := s.withInputs rest) hp
    exact ⟨u.complete code, hu, rfl, hw.irq_complete code⟩
  · have hdone : (writeStatus (s.withInputs rest) v).done = false := by simp [writeStatus, hv]
    exact ⟨_, step_memWrite s rest v (by omega) rfl, irq_eq_false_of_done hdone, rfl⟩
  · refine ⟨(s.withInputs rest).accept v, ?_, irq_eq_false_of_done rfl, rfl⟩
    exact (step_memWrite s rest v (by omega) rfl).trans (congrArg _ (hostWrite_cmd_idle (s := s.withInputs rest) hp v))
  · exact ⟨_, step_hardReset s rest, irq_eq_false_of_done rfl⟩
  · exact ⟨_, hctrl.trans (congrArg _ (hostWrite_ctrl_reset _ hv)), irq_eq_false_of_done rfl⟩
  · exact ⟨_, hctrl.trans (congrArg _ (hostWrite_ctrl_ie _ hv)), rfl, rfl⟩

end Sys2Proof.Machine
end

section
/-! SUPPORT. What a command writes, and what that depends on: the registers and flags a command writes are the same from any
two states that it reads alike. -/

namespace Sys2Proof

/-- MOV and SETBIT read a register as a whole; every other command reads the value of its sources (R23). -/
def Instr.ReadsByValue : Instr → Prop
  | .mov _ _ => False
  | .setbit _ => False
  | _ => True

end Sys2Proof

namespace Sys2Proof.Machine

/-- The bit TESTBIT writes to T (R151). -/
def State.testedBit (s : State) (a : RegId) : Bool := if s.argNat < 32 * s.len a then (s.x a).testBit s.argNat else false

/-- R151, R22: an index at or above 32 * LEN is above every bit of the value, so LEN makes no difference. -/
theorem State.testedBit_eq_testBit {s : State} (h : s.regsWf) (a : RegId) : s.testedBit a = (s.x a).testBit s.argNat := by
  unfold testedBit
  split
  · rfl
  · have hlen : 32 * s.len a ≤ s.argNat := by omega
    have hx : s.x a < 2 ^ s.argNat := (h a).value_lt_len.trans_le (Nat.pow_le_pow_right (by omega) hlen)
    exact (Nat.testBit_eq_false_of_lt hx).symm

/-- What `i` reads is the same in `s` and in `s'`: the parameters, the captured ARG, and of its sources the value, the bit at
index ARG and, for MOV and SETBIT, the whole register. FLAGS are not read (R31). -/
structure ReadsAlike (i : Instr) (s s' : State) : Prop where
  cfg : s'.cfg = s.cfg
  capturedArg : s'.capturedArg = s.capturedArg
  x {r : RegId} : r ∈ i.sources → s'.x r = s.x r
  testedBit {r : RegId} : r ∈ i.sources → s'.testedBit r = s.testedBit r
  reg {r : RegId} : ¬i.ReadsByValue → r ∈ i.sources → s'.reg r = s.reg r

namespace ReadsAlike

theorem refl (i : Instr) (s : State) : ReadsAlike i s s := ⟨rfl, rfl, fun _ => rfl, fun _ => rfl, fun _ _ => rfl⟩

theorem withFlags (i : Instr) (s : State) (f : Flags) : ReadsAlike i s { s with flags := f } :=
  ⟨rfl, rfl, fun _ => rfl, fun _ => rfl, fun _ _ => rfl⟩

variable {i : Instr} {s s' : State}

theorem argNat (h : ReadsAlike i s s') : s'.argNat = s.argNat := congrArg BitVec.toNat h.capturedArg

theorem argInt (h : ReadsAlike i s s') : s'.argInt = s.argInt := congrArg BitVec.toInt h.capturedArg

/-! The values of the first, the second and the third source, the form in which a proof about one command needs `x`. -/

theorem x₁ (h : ReadsAlike i s s') {a : RegId} {l : List RegId} (hi : i.sources = a :: l) : s'.x a = s.x a :=
  h.x (by simp [hi])

theorem x₂ (h : ReadsAlike i s s') {a b : RegId} {l : List RegId} (hi : i.sources = a :: b :: l) : s'.x b = s.x b :=
  h.x (by simp [hi])

theorem x₃ (h : ReadsAlike i s s') {a b c : RegId} {l : List RegId} (hi : i.sources = a :: b :: c :: l) :
    s'.x c = s.x c :=
  h.x (by simp [hi])

/-- R23: registers of equal value that meet R22 are read alike by value, whatever their LEN. -/
theorem of_values (hi : i.ReadsByValue) (hs : s.regsWf) (hs' : s'.regsWf) (hcfg : s'.cfg = s.cfg)
    (harg : s'.capturedArg = s.capturedArg) (hx : ∀ r ∈ i.sources, s'.x r = s.x r) : ReadsAlike i s s' where
  cfg := hcfg
  capturedArg := harg
  x := hx _
  testedBit hr := by
    rw [State.testedBit_eq_testBit hs, State.testedBit_eq_testBit hs', hx _ hr, State.argNat, harg, State.argNat]
  reg h := absurd hi h

end ReadsAlike

/-- The register file with the registers `ws` written in order. -/
def writeRegs (regs : Vector Reg 16) (ws : List (RegId × Reg)) : Vector Reg 16 :=
  ws.foldl (fun v w => v.set w.1.val w.2 w.1.isLt) regs

/-- The registers `ws` written in order, and FLAGS changed by `g`. -/
def State.write (s : State) (ws : List (RegId × Reg)) (g : Flags → Flags) : State :=
  { s with regs := writeRegs s.regs ws, flags := g s.flags }

/-- What a written register holds is one of the registers written to it, whatever the state was. -/
theorem exists_mem_write {ws : List (RegId × Reg)} {d : RegId} (h : d ∈ ws.map Prod.fst) :
    ∃ r, (d, r) ∈ ws ∧ ∀ (s : State) (g : Flags → Flags), (s.write ws g).reg d = r := by
  induction ws using List.reverseRecOn with
  | nil => cases h
  | append_singleton ws w ih =>
    have hreg (s : State) (g : Flags → Flags) :
        (s.write (ws ++ [w]) g).reg d = if d = w.1 then w.2 else (s.write ws g).reg d := by
      simp only [State.write, State.reg, writeRegs, List.foldl_append, List.foldl_cons, List.foldl_nil,
        Vector.get_eq_getElem, Vector.getElem_set, Fin.ext_iff, eq_comm]
    by_cases hd : d = w.1
    · exact ⟨w.2, by simp [hd], fun s g => by rw [hreg, if_pos hd]⟩
    · obtain ⟨r, hr, hw⟩ := ih (by simpa [hd] using h)
      exact ⟨r, List.mem_append_left _ hr, fun s g => by rw [hreg, if_neg hd, hw]⟩

/-- The canonical writes of R25 in a build with `maxw` words. -/
def canonicalWrites (maxw : Nat) (vs : List (RegId × Nat)) : List (RegId × Reg) :=
  vs.map fun w => (w.1, Reg.ofValue maxw (clen w.2) w.2)

/-- How a command that succeeds writes FLAGS (R31). -/
def FlagRule (g : Flags → Flags) : Instr → Prop
  | .cmp _ _ => ∃ a b, g = (Flags.compare · a b)
  | .testbit _ => ∃ b, g = (Flags.setT · b)
  | .isz _ => ∃ b, g = (Flags.setT · b)
  | .isprime _ => ∃ b, g = (Flags.setT · b)
  | .minv _ _ _ => ∃ b, g = (Flags.setT · b)
  | _ => g = id

/-- What a command that succeeds from `s` writes to its destinations (R24): a register of a certain LEN, for MOV, SETBIT and
the digests; a value written canonically, for every other command. -/
def RegRule (s : State) (r : Reg) : Instr → Prop
  | .mov _ a => r.len = s.len a
  | .setbit d => r.len = s.len d
  | .digest256 _ _ => r.len = 8
  | .digest512 _ _ => r.len = 16
  | _ => ∃ v, r = Reg.ofValue s.cfg.maxw (clen v) v

/-- `c` acts as a command `i` may, and in one way on all states that `i` reads as it reads `s`: it raises one error, which
only a command with a destination does, or it writes one list of registers, its destinations, and one change of FLAGS. -/
inductive ActsAlike (i : Instr) (s : State) (c : State → Host.Outcome State Fault Refusal) : Prop
  | fails (code : ErrCode) (hcode : code ≠ .ok) (hdests : i.dests ≠ [])
      (h : ∀ s', ReadsAlike i s s' → c s' = raise code s')
  | writes (ws : List (RegId × Reg)) (g : Flags → Flags) (hdests : ws.map Prod.fst = i.dests) (hflags : FlagRule g i)
      (hregs : ∀ w ∈ ws, RegRule s w.2 i) (h : ∀ s', ReadsAlike i s s' → c s' = succeed (s'.write ws g))

namespace ActsAlike

variable {i : Instr} {s : State} {c c' : State → Host.Outcome State Fault Refusal}

theorem congr (hc : ActsAlike i s c) (h : ∀ s', ReadsAlike i s s' → c' s' = c s') : ActsAlike i s c' := by
  rcases hc with ⟨code, hcode, hd, hc⟩ | ⟨ws, g, hd, hf, hr, hc⟩
  · exact .fails code hcode hd fun s' hs => (h s' hs).trans (hc s' hs)
  · exact .writes ws g hd hf hr fun s' hs => (h s' hs).trans (hc s' hs)

theorem raise (code : ErrCode) (hcode : code ≠ .ok := by decide) (hdests : i.dests ≠ [] := by exact nofun) :
    ActsAlike i s (Machine.raise code) := .fails code hcode hdests fun _ _ => rfl

/-- A choice that `i` makes in the same way on all states it reads as it reads `s`. -/
theorem ite {p : State → Prop} [∀ s', Decidable (p s')] (hp : ∀ s', ReadsAlike i s s' → (p s' ↔ p s))
    (hc : p s → ActsAlike i s c) (hc' : ¬p s → ActsAlike i s c') :
    ActsAlike i s fun s' => if p s' then c s' else c' s' := by
  by_cases h : p s
  · exact (hc h).congr fun s' hs => if_pos ((hp s' hs).2 h)
  · exact (hc' h).congr fun s' hs => if_neg (mt (hp s' hs).1 h)

/-- The check of a divisor or modulus (R130). -/
theorem divzero {m : RegId} (hc : ActsAlike i s c) (hm : m ∈ i.sources := by simp [Instr.sources])
    (hdests : i.dests ≠ [] := by exact nofun) :
    ActsAlike i s fun s' => if s'.x m = 0 then Machine.raise .divzero s' else c s' :=
  .ite (fun s' hs => by rw [hs.x hm]) (fun _ => .raise .divzero (hdests := hdests)) fun _ => hc

/-- A command that writes its results canonically (R25). -/
theorem writeValues {w : State → State} (vs : List (RegId × Nat)) (g : Flags → Flags)
    (hw : ∀ s', ReadsAlike i s s' → w s' = s'.write (canonicalWrites s'.cfg.maxw vs) g)
    (hdests : vs.map Prod.fst = i.dests) (hflags : FlagRule g i)
    (hregs : ∀ v, RegRule s (Reg.ofValue s.cfg.maxw (clen v) v) i) : ActsAlike i s fun s' => succeed (w s') := by
  refine .writes (canonicalWrites s.cfg.maxw vs) g ?_ hflags ?_ fun s' hs => by rw [hw s' hs, hs.cfg]
  · simp [canonicalWrites, ← hdests]
  · intro w hw
    obtain ⟨v, -, rfl⟩ := List.mem_map.1 hw
    exact hregs v.2

theorem writeValue {d : RegId} {v : State → Nat} (hv : ∀ s', ReadsAlike i s s' → v s' = v s)
    (hdests : [d] = i.dests := by rfl) (hflags : FlagRule id i := by rfl)
    (hregs : ∀ v, RegRule s (Reg.ofValue s.cfg.maxw (clen v) v) i := by exact fun v => ⟨v, rfl⟩) :
    ActsAlike i s fun s' => succeed (s'.writeValue d (v s')) :=
  .writeValues [(d, v s)] id (fun s' hs => hv s' hs ▸ rfl) hdests hflags hregs

theorem writeOrCap {d : RegId} {v : State → Nat} (hv : ∀ s', ReadsAlike i s s' → v s' = v s)
    (hdests : [d] = i.dests := by rfl) (hflags : FlagRule id i := by rfl)
    (hregs : ∀ v, RegRule s (Reg.ofValue s.cfg.maxw (clen v) v) i := by exact fun v => ⟨v, rfl⟩) :
    ActsAlike i s fun s' => writeOrCap s' d (v s') :=
  .ite (fun s' hs => by rw [hv s' hs, State.fits, State.fits, hs.cfg]) (fun _ => .writeValue hv hdests hflags hregs)
    fun _ => .raise .cap (hdests := hdests ▸ nofun)

/-- A command that writes T alone. -/
theorem writeT {b : State → Bool} (hb : ∀ s', ReadsAlike i s s' → b s' = b s)
    (hdests : [] = i.dests := by rfl) (hflags : FlagRule (Flags.setT · (b s)) i := by exact ⟨_, rfl⟩) :
    ActsAlike i s fun s' => succeed (s'.writeT (b s')) :=
  .writes [] _ hdests hflags nofun fun s' h => by rw [hb s' h]; rfl

end ActsAlike

/-! The commands that are more than a check and one result. -/

theorem execSub_actsAlike (d a b : RegId) (s : State) : ActsAlike (.sub d a b) s (execSub d a b) :=
  .ite (fun s' h => by rw [h.x₁ rfl, h.x₂ rfl]) (fun _ => .raise .under) fun _ =>
    .writeValue fun s' h => by rw [h.x₁ rfl, h.x₂ rfl]

theorem execDivrem_actsAlike (d e a b : RegId) (s : State) : ActsAlike (.divrem d e a b) s (execDivrem d e a b) :=
  .ite (fun _ _ => .rfl) (fun _ => .raise .illegal) fun _ => .divzero <|
    .writeValues [(d, (restoringDivide (s.x a) (s.x b)).1), (e, (restoringDivide (s.x a) (s.x b)).2)] id
      (fun s' h => by rw [h.x₁ rfl, h.x₂ rfl]; rfl) rfl rfl fun v => ⟨v, rfl⟩

/-- R150: the sign of the count, which is ARG, chooses the direction. -/
theorem execShift_actsAlike (d a : RegId) (s : State) : ActsAlike (.shift d a) s (execShift d a) := by
  cases hn : s.argInt with
  | ofNat n =>
    refine .congr (c := fun s' => if wordsForBits (shiftedBits (s'.x a) n) ≤ s'.cfg.maxw then
      succeed (s'.writeValue d (shiftLeftValue (s'.x a) n)) else raise .cap s') ?_ fun s' h => ?_
    · exact .ite (fun s' h => by rw [h.x₁ rfl, h.cfg]) (fun _ => .writeValue fun s' h => by rw [h.x₁ rfl])
        fun _ => .raise .cap
    · rw [execShift, h.argInt, hn]
  | negSucc n =>
    refine .congr (c := fun s' => writeOrCap s' d (shiftRightValue (s'.x a) (n + 1))) ?_ fun s' h => ?_
    · exact .writeOrCap fun s' h => by rw [h.x₁ rfl]
    · rw [execShift, h.argInt, hn]

theorem State.write_reg_self (s : State) (d : RegId) : s.write [(d, s.reg d)] id = s := by
  have hregs : writeRegs s.regs [(d, s.reg d)] = s.regs := by
    simp [writeRegs, State.reg, Vector.get_eq_getElem]
  rw [State.write, hregs]
  rfl

/-- R152: out of range SETBIT leaves RD as it stands. -/
theorem execSetbit_actsAlike (d : RegId) (s : State) : ActsAlike (.setbit d) s (execSetbit d) := by
  have hreg {s'} (h : ReadsAlike (.setbit d) s s') : s'.reg d = s.reg d := h.reg nofun (.head _)
  refine .ite (fun s' h => by rw [h.argNat, State.len, hreg h]; rfl) (fun _ => ?_) fun _ => ?_
  · let w := s.word d (s.argNat / 32) ||| BitVec.ofNat 32 (2 ^ (s.argNat % 32))
    refine .writes [(d, (s.reg d).setWord (s.argNat / 32) w)] id rfl rfl (by simp [RegRule, Reg.setWord, State.len])
      fun s' h => ?_
    simp only [h.argNat, State.word, hreg h]
    rfl
  · exact .writes [(d, s.reg d)] id rfl rfl (by simp [RegRule, State.len]) fun s' h => by
      rw [← hreg h, State.write_reg_self]

/-- R184, R185. -/
theorem runDigest_actsAlike {w : Nat} (p : DigestParams w) {i : Instr} {d a : RegId} (s : State) (hdests : [d] = i.dests)
    (hsources : i.sources = [a]) (hflags : FlagRule id i)
    (hregs : ∀ v, RegRule s (Reg.ofValue s.cfg.maxw p.resultLen v) i) :
    ActsAlike i s (runDigest p d a) := by
  refine .ite (fun s' h => by rw [h.argNat, h.cfg]) (fun _ => .raise .arg (hdests := hdests ▸ nofun)) fun _ =>
    .ite (fun s' h => by rw [h.argNat, h.x₁ hsources]) (fun _ => .raise .arg (hdests := hdests ▸ nofun)) fun _ => ?_
  refine .writes [(d, Reg.ofValue s.cfg.maxw p.resultLen (digestValue (hashMessage p (s.x a) s.argNat)))] id hdests hflags
    (by simpa using hregs _) fun s' h => ?_
  rw [h.argNat, h.x₁ hsources, ← h.cfg]
  rfl

theorem execEea_actsAlike (d e f a b c : RegId) (s : State) : ActsAlike (.eea d e f a b c) s (execEea d e f a b c) := by
  let r := eea (s.x a) (s.x b) (s.x c)
  exact .ite (fun _ _ => .rfl) (fun _ => .raise .illegal) fun _ => .divzero <|
    .writeValues [(d, r.g), (e, r.s), (f, r.t)] id (fun s' h => by rw [h.x₁ rfl, h.x₂ rfl, h.x₃ rfl]; rfl) rfl rfl
      fun v => ⟨v, rfl⟩

theorem execMinv_actsAlike (d a c : RegId) (s : State) : ActsAlike (.minv d a c) s (execMinv d a c) := by
  let r := eea (s.x c) (s.x a) (s.x c)
  exact .divzero <| .writeValues [(d, r.t)] (Flags.setT · (decide (r.g = 1)))
    (fun s' h => by rw [h.x₁ rfl, h.x₂ rfl]; rfl) rfl ⟨_, rfl⟩ fun v => ⟨v, rfl⟩

/-- Every command reads its sources, the parameters and ARG, and nothing else of the state it runs in. -/
theorem exec_actsAlike (i : Instr) (s : State) : ActsAlike i s (exec i) := by
  cases i with
  | mov d a =>
    exact .writes [(d, s.reg a)] id rfl rfl (by simp [RegRule, State.len]) fun s' h => by
      rw [← h.reg nofun (.head _)]; rfl
  | ldi d => exact .writeValue fun s' h => h.argNat
  | add d a b => exact .writeOrCap fun s' h => by rw [h.x₁ rfl, h.x₂ rfl]
  | sub d a b => exact execSub_actsAlike d a b s
  | mul d a b => exact .writeOrCap fun s' h => by rw [h.x₁ rfl, h.x₂ rfl]
  | divq d a b => exact .divzero <| .writeValue fun s' h => by rw [h.x₁ rfl, h.x₂ rfl]
  | mod d a b => exact .divzero <| .writeValue fun s' h => by rw [h.x₁ rfl, h.x₂ rfl]
  | divrem d e a b => exact execDivrem_actsAlike d e a b s
  | addm d a b c => exact .divzero <| .writeValue fun s' h => by rw [h.x₁ rfl, h.x₂ rfl, h.x₃ rfl]
  | subm d a b c => exact .divzero <| .writeValue fun s' h => by rw [h.x₁ rfl, h.x₂ rfl, h.x₃ rfl]
  | mulm d a b c => exact .divzero <| .writeValue fun s' h => by rw [h.x₁ rfl, h.x₂ rfl, h.x₃ rfl]
  | divm d a b c => exact .divzero <| .divzero <| .writeValue fun s' h => by rw [h.x₁ rfl, h.x₂ rfl, h.x₃ rfl]
  | expm d a b c => exact .divzero <| .writeValue fun s' h => by rw [h.x₁ rfl, h.x₂ rfl, h.x₃ rfl]
  | shift d a => exact execShift_actsAlike d a s
  | testbit a => exact .writeT (b := (·.testedBit a)) fun s' h => h.testedBit (.head _)
  | setbit d => exact execSetbit_actsAlike d s
  | cmp a b =>
    exact .writes [] (Flags.compare · (s.x a) (s.x b)) rfl ⟨_, _, rfl⟩ nofun fun s' h => by
      rw [← h.x₁ rfl, ← h.x₂ rfl]; rfl
  | isz a => exact .writeT fun s' h => by rw [h.x₁ rfl]
  | digest256 d a => exact runDigest_actsAlike _ s rfl rfl rfl fun _ => rfl
  | digest512 d a => exact runDigest_actsAlike _ s rfl rfl rfl fun _ => rfl
  | gcd d a b => exact .writeValue fun s' h => by rw [h.x₁ rfl, h.x₂ rfl]
  | eea d e f a b c => exact execEea_actsAlike d e f a b c s
  | minv d a c => exact execMinv_actsAlike d a c s
  | isprime a => exact .writeT fun s' h => by rw [h.cfg, h.x₁ rfl]

end Sys2Proof.Machine
end

section
/-! FLAGS (R31), canonical results (R24) and reading by value (R23), from what a command writes. -/

namespace Sys2Proof.Machine

/-- R31: exactly one of LT, EQ and GT is 1 after a comparison. -/
theorem Flags.compare_one (f : Flags) (a b : Nat) :
    (f.compare a b).lt.toNat + (f.compare a b).eq.toNat + (f.compare a b).gt.toNat = 1 := by
  unfold compare
  rcases Nat.lt_trichotomy a b with h | h | h
  · simp [h, h.ne, h.not_gt]
  · simp [h]
  · simp [h, h.ne', h.not_gt]

/-- Settles O10: no command reads FLAGS (`ReadsAlike.withFlags`), and each follows its `FlagRule`. -/
theorem flagWriters : Obligations.FlagWriters := by
  intro i s t f h
  rcases exec_actsAlike i s with ⟨code, hcode, hdests, hc⟩ | ⟨ws, g, -, hg, -, hc⟩
  · cases (hc s (.refl i s)).symm.trans h
    refine ⟨_, hc _ (.withFlags i s f), rfl, fun _ => rfl, ?_⟩
    cases i with
    | cmp | testbit | isz | isprime => exact absurd rfl hdests
    | minv => exact ⟨rfl, fun hok => absurd hok hcode⟩
    | _ => exact ⟨rfl, rfl⟩
  · cases (hc s (.refl i s)).symm.trans h
    refine ⟨_, hc _ (.withFlags i s f), rfl, fun hne => absurd rfl hne, ?_⟩
    cases i with
    | cmp =>
      obtain ⟨a, b, rfl⟩ := hg
      exact ⟨rfl, Flags.compare_one s.flags a b, rfl⟩
    | testbit | isz | isprime =>
      obtain ⟨b, rfl⟩ := hg
      exact ⟨rfl, rfl⟩
    | minv =>
      obtain ⟨b, rfl⟩ := hg
      exact ⟨rfl, fun _ => rfl⟩
    | _ =>
      cases hg
      exact ⟨rfl, rfl⟩

/-- R24, R25: a value written canonically into a register that then meets R21 is canonical. -/
theorem Reg.canonical_ofValue {m v : Nat} (h : (Reg.ofValue m (clen v) v).wf m) : (Reg.ofValue m (clen v) v).canonical := by
  have hv : (Reg.ofValue m (clen v) v).value = v := Reg.value_ofValue (lt_of_clen_le h.1)
  rw [Reg.canonical, hv, Reg.len_ofValue]

/-- R21, R22: a command keeps them in a legal build. -/
theorem regsWf_of_exec {i : Instr} {s t : State} (hm : s.cfg.legal) (hs : s.regsWf) (h : exec i s = .next t) :
    t.regsWf ∧ t.cfg = s.cfg := by
  obtain ⟨u, code, hu, hw⟩ := exec_ends i s
  cases hu.symm.trans h
  exact ⟨hw.keepsWf hm.1 hs, hw.cfg_eq⟩

/-- What a command that succeeds leaves in a destination follows the command's rule. -/
theorem regRule_of_exec {i : Instr} {s t : State} (h : exec i s = .next t) (hok : t.errcode = .ok) {d : RegId}
    (hd : d ∈ i.dests) : RegRule s (t.reg d) i := by
  rcases exec_actsAlike i s with ⟨code, hcode, -, hc⟩ | ⟨ws, g, hdests, -, hregs, hc⟩
  · cases (hc s (.refl i s)).symm.trans h
    exact absurd hok hcode
  · cases (hc s (.refl i s)).symm.trans h
    obtain ⟨r, hr, hget⟩ := exists_mem_write (hdests ▸ hd)
    rw [State.reg_complete, hget]
    exact hregs _ hr

/-- Settles O12: each destination follows its command's `RegRule`, and meets R21. -/
theorem resultsAreCanonical : Obligations.ResultsAreCanonical := by
  intro i s t hlegal hs h hok
  obtain ⟨hwf, hcfg⟩ := regsWf_of_exec hlegal hs h
  have hrule {d : RegId} (hd : d ∈ i.dests) := regRule_of_exec h hok hd
  cases i with
  | mov | setbit | digest256 | digest512 => exact hrule (.head _)
  | _ =>
    intro d hd
    obtain ⟨v, hv⟩ := hrule hd
    have := hwf d
    rw [hv, hcfg] at this
    rw [hv]
    exact Reg.canonical_ofValue this

/-- Settles O13: registers of equal value are read alike (`ReadsAlike.of_values`), so the command does the same on both. -/
theorem sourcesAreReadByValue : Obligations.SourcesAreReadByValue := by
  intro i s₁ s₂ t₁ t₂ hi hs₁ hs₂ hcfg hpend harg hflags hx h₁ h₂
  have hcap : s₁.capturedArg = s₂.capturedArg := by rw [State.capturedArg, State.capturedArg, hpend, harg]
  have halike : ReadsAlike i s₁ s₂ := .of_values hi hs₁ hs₂ hcfg.symm hcap.symm fun r hr => (hx r hr).symm
  rcases exec_actsAlike i s₁ with ⟨code, hcode, -, hc⟩ | ⟨ws, g, hdests, -, -, hc⟩
  · cases (hc s₁ (.refl i s₁)).symm.trans h₁
    cases (hc s₂ halike).symm.trans h₂
    exact ⟨rfl, hflags, fun hok => absurd hok hcode⟩
  · cases (hc s₁ (.refl i s₁)).symm.trans h₁
    cases (hc s₂ halike).symm.trans h₂
    refine ⟨rfl, congrArg g hflags, fun _ d hd => ?_⟩
    obtain ⟨r, -, hget⟩ := exists_mem_write (hdests ▸ hd)
    exact (hget s₁ g).trans (hget s₂ g).symm

end Sys2Proof.Machine
end

section
/-! The window as the host sees it (R50 to R59): which accesses take a step, what is dropped or drawn while BUSY = 1, REGWORD
while BUSY = 0, and the accesses R54 rejects. -/

namespace Sys2Proof.Machine

/-- R54, R57, R58: a step on a write that its entry rejects sets HERR, and changes nothing else. -/
theorem step_memWrite_setHerr {s : State} {rest : List Event} {off : Nat} {w : WinReg} {v : Word} (h : off < 0x20000)
    (h4 : off % 4 = 0) (hw : winReg off = w) (hdrop : hostWrite (s.withInputs rest) w v = (s.withInputs rest).setHerr) :
    step { s with inputs := memWrite s.cfg off v :: rest } = .next { s with inputs := rest, herr := true } := by
  rw [step_memWrite s rest v h h4, hw, hdrop]
  rfl

/-- R58: a step on a read of which a draw is made gives the next free value, and changes nothing else. -/
theorem step_memRead_drawn {s : State} {rest : List Event} {off : Nat} {w : WinReg} (h : off < 0x20000) (h4 : off % 4 = 0)
    (hw : winReg off = w) (hb : (s.withInputs rest).busy = true) (hd : drawnWhileBusy w = true) :
    step { s with inputs := memRead s.cfg off :: rest } =
      .next { s with inputs := rest, readData := some (Config.freeWord s.draws), draws := s.draws + 1 } := by
  have hdraw : ((s.withInputs rest).busy && drawnWhileBusy w) = true := Bool.and_eq_true_iff.2 ⟨hb, hd⟩
  rw [step_memRead s rest h h4, hw, hostRead, if_pos hdraw]
  rfl

theorem hostWrite_regword_idle {s : State} (h : s.pending = none) (r : RegId) (j : Nat) (v : Word) :
    hostWrite s (.regword r j) v = writeRegword s r j v :=
  if_neg (not_busy_of_idle h)

theorem writeRegword_of_lt {s : State} {r : RegId} {j : Nat} (hm : j < s.cfg.maxw) (hl : j < s.len r) (v : Word) :
    writeRegword s r j v = s.setReg r ((s.reg r).setWord j v) := if_pos ⟨hm, hl⟩

theorem writeRegword_of_le {s : State} {r : RegId} {j : Nat} (hl : s.len r ≤ j) (v : Word) :
    writeRegword s r j v = s.setHerr := if_neg fun h => Nat.not_le.2 h.2 hl

/-- R56: a word write replaces its word of its register, and leaves the other words, LEN and the other registers. -/
theorem State.setWord_effect {s : State} (h : s.regsWf) (r : RegId) {j : Nat} (hj : j < s.cfg.maxw) (v : Word) :
    let t := s.setReg r ((s.reg r).setWord j v)
    t.word r j = v ∧ (∀ k, k ≠ j → t.word r k = s.word r k) ∧ t.len r = s.len r ∧ RegsKept [r] s t := by
  intro t
  have hreg : t.reg r = (s.reg r).setWord j v := by simp [t]
  have hword (k : Nat) : t.word r k = if k = j then v else s.word r k := by
    rw [State.word, hreg, Reg.word_setWord (h r) hj]
    rfl
  exact ⟨(hword j).trans (if_pos rfl), fun k hk => (hword k).trans (if_neg hk), (congrArg Reg.len hreg).trans rfl,
    RegsKept_setReg s r _⟩

/-- R33: a CTRL write without SRST whose bit 0 is IE changes nothing. -/
theorem hostWrite_ctrl_reserved {s : State} {v : Word} (h0 : v.getLsbD 0 = s.ie) (h1 : v.getLsbD 1 = false) :
    hostWrite s .ctrl v = s := by
  rw [hostWrite_ctrl_ie s h1, h0]

/-- R235: a STATUS write with neither bit 1 nor bit 3 changes nothing. -/
theorem hostWrite_status_reserved {s : State} {v : Word} (h1 : v.getLsbD 1 = false) (h3 : v.getLsbD 3 = false) :
    hostWrite s .status v = s := by
  rw [hostWrite, writeStatus, h1, h3, Bool.not_false, Bool.and_true, Bool.and_true]

/-- Settles O47: a step on an access is `hostAccess`, which asks for `admitted`. -/
theorem onlyAdmittedAccessesStep : Obligations.OnlyAdmittedAccessesStep := by
  intro s a rest
  rw [← admitted_iff]
  exact ⟨fun h => ⟨_, hostAccess_admitted (s := s.withInputs rest) h⟩, hostAccess_refused (s := s.withInputs rest)⟩

/-- Settles O49: each of the four entries asks for BUSY first. -/
theorem writesWhileBusyAreDropped : Obligations.WritesWhileBusyAreDropped := by
  intro s v rest r j hp hj off hoff
  have hb : (s.withInputs rest).busy = true := Option.isSome_iff_ne_none.2 hp
  have hr := r.isLt
  simp only [List.mem_cons, List.not_mem_nil, or_false] at hoff
  obtain rfl | rfl | rfl | rfl := hoff
  · exact step_memWrite_setHerr (w := .arg) (by omega) rfl rfl (if_pos hb)
  · exact step_memWrite_setHerr (w := .cmd) (by omega) rfl rfl (if_pos hb)
  · exact step_memWrite_setHerr (by omega) (by omega) (winReg_reglen r) (if_pos hb)
  · exact step_memWrite_setHerr (by omega) (by omega) (winReg_regword r hj) (if_pos hb)

/-- Settles O50: `step_memRead_drawn` for the entries of which R58 makes a draw, `step_memRead_plain` for the others. -/
theorem readsWhileBusy : Obligations.ReadsWhileBusy := by
  intro s rest r j hp hj
  have hb : (s.withInputs rest).busy = true := Option.isSome_iff_ne_none.2 hp
  have hr := r.isLt
  refine ⟨fun off hoff => ?_, fun q hq => ?_⟩
  · simp only [List.mem_cons, List.not_mem_nil, or_false] at hoff
    obtain rfl | rfl | rfl := hoff
    · exact step_memRead_drawn (w := .flags) (by omega) rfl rfl hb rfl
    · exact step_memRead_drawn (by omega) (by omega) (winReg_reglen r) hb rfl
    · exact step_memRead_drawn (by omega) (by omega) (winReg_regword r hj) hb rfl
  · simp only [List.mem_cons, List.not_mem_nil, or_false] at hq
    obtain rfl | rfl | rfl | rfl | rfl := hq <;> exact step_memRead_plain s rest (by omega) (by omega) (.inr rfl)

/-- Settles O51: a write below LEN is the word write of `State.setWord_effect`, since LEN is at most MAXW. -/
theorem regwordAccess : Obligations.RegwordAccess := by
  rintro s rest r j v ⟨-, hwf, -⟩ hp hj
  have hr := r.isLt
  have hidle : (s.withInputs rest).pending = none := hp
  refine ⟨?_, fun hlt => ?_, fun hle => ?_⟩
  · rw [step_memRead_plain s rest (by omega) (by omega) (.inl hp), winReg_regword r hj, winRead]
  · have hm : j < s.cfg.maxw := Nat.lt_of_lt_of_le hlt (hwf r).1
    obtain ⟨hword, hwords, hlen, hkept⟩ := State.setWord_effect (s := s.withInputs rest) hwf r hm v
    refine ⟨_, ?_, hword, hwords, hlen, hkept, rfl⟩
    rw [step_memWrite s rest v (by omega) (by omega), winReg_regword r hj, hostWrite_regword_idle hidle,
      writeRegword_of_lt (s := s.withInputs rest) hm hlt]
  · exact step_memWrite_setHerr (by omega) (by omega) (winReg_regword r hj)
      ((hostWrite_regword_idle hidle r j v).trans (writeRegword_of_le (s := s.withInputs rest) hle v))

/-- Settles O53: a reserved offset by `winReg_reserved`, CAPS and FLAGS by their entries, reserved bits of CTRL and STATUS by
`hostWrite_ctrl_reserved` and `hostWrite_status_reserved`. -/
theorem rejectedAccesses : Obligations.RejectedAccesses := by
  intro s rest off v h4
  refine ⟨fun hoff => ?_, ?_, fun h0 h1 => ?_, fun h1 h3 => ?_⟩
  · have hw := winReg_reserved hoff
    have hlt : off < 0x20000 := by omega
    refine ⟨?_, step_memWrite_setHerr hlt h4 hw rfl⟩
    rw [step_memRead_plain s rest hlt h4 (.inr (hw ▸ rfl)), hw, winRead]
  · rintro (rfl | rfl)
    · exact step_memWrite_setHerr (w := .caps) (by omega) rfl rfl rfl
    · exact step_memWrite_setHerr (w := .flags) (by omega) rfl rfl rfl
  · exact (step_memWrite s rest v (by omega) rfl).trans (congrArg _ (hostWrite_ctrl_reserved (s := s.withInputs rest) h0 h1))
  · exact (step_memWrite s rest v (by omega) rfl).trans (congrArg _ (hostWrite_status_reserved h1 h3))

end Sys2Proof.Machine
end

section
/-! The decoder and the encoder (R81, R84, R87 to R90), row by row of the opcode map. -/

namespace Sys2Proof

/-- A command word is packed from its own OPC and fields (R81). -/
theorem packWord_fieldsOf (cw : Word) : packWord (opcField cw) (fieldsOf cw) = cw := by
  have hfield (lo : Nat) : regBits (regField cw lo) = cw.extractLsb' lo 4 := rfl
  apply BitVec.eq_of_getLsbD_eq
  intro i hi
  rw [getLsbD_packWord]
  simp only [fieldsOf, hfield, opcField, BitVec.getLsbD_extractLsb']
  split_ifs <;> grind

theorem opcField_and (x y : Word) : opcField (x &&& y) = opcField x &&& opcField y := BitVec.extractLsb'_and

/-- OPC written into a packed word that has none. -/
theorem packWord_or_opc (o : BitVec 8) (r : Fields) : packWord 0 r ||| packWord o ⟨0, 0, 0, 0, 0, 0⟩ = packWord o r := by
  apply BitVec.eq_of_getLsbD_eq
  intro i hi
  rw [BitVec.getLsbD_or]
  simp only [getLsbD_packWord]
  split_ifs <;> simp [regBits]

/-! ### The rows of the opcode map -/

/-- Register fields under mask fields, each by `maskReg`. -/
def Fields.under (r m : Fields) : Fields :=
  ⟨maskReg r.d m.d, maskReg r.e m.e, maskReg r.a m.a, maskReg r.b m.b, maskReg r.c m.c, maskReg r.f m.f⟩

/-- The fields of a row's shape: 15 for one that it uses, 0 for one that must be 0 (R84). -/
def OpRow.used (row : OpRow) : Fields := fieldsOf (~~~row.mask)

theorem maskReg_all (r : RegId) : maskReg r 15 = r := by revert r; decide

/-- R87: every mask covers OPC, and every match is the row's OPC with 0 in all fields. -/
theorem opcodeMap_shape : ∀ row ∈ opcodeMap, opcField row.mask = BitVec.allOnes 8 ∧ opcField (~~~row.mask) = 0#8 ∧
    row.pattern = packWord row.opc ⟨0, 0, 0, 0, 0, 0⟩ ∧ row.pattern &&& row.mask = row.pattern := by
  decide

/-- R90: the rows differ in OPC. -/
theorem row_eq_of_opc_eq {row row' : OpRow} (h : row ∈ opcodeMap) (h' : row' ∈ opcodeMap) (hopc : row.opc = row'.opc) :
    row = row' := by
  have hnodup : (opcodeMap.map OpRow.opc).Nodup := by decide
  exact List.inj_on_of_nodup_map hnodup h h' hopc

/-- A row that matches a word has its OPC. -/
theorem opcField_eq_of_match {cw : Word} {row : OpRow} (h : row ∈ opcodeMap) (hm : cw &&& row.mask = row.pattern) :
    opcField cw = row.opc := by
  obtain ⟨hones, -, hpat, -⟩ := opcodeMap_shape row h
  calc opcField cw = opcField (cw &&& row.mask) := by rw [opcField_and, hones, BitVec.and_allOnes]
    _ = row.opc := by rw [hm, hpat, opcField_packWord]

/-- The word of the command that a row makes has the row's OPC, the fields the row uses, and 0 in the others (R84, R87). -/
theorem encode_build_packed : ∀ row ∈ opcodeMap, ∀ r : Fields,
    encode (row.build r) = packWord row.opc (r.under row.used) := by
  simp only [opcodeMap, moveRows, arithRows, modularRows, bitRows, hashTheoryRows, List.cons_append, List.nil_append,
    List.forall_mem_cons]
  simp [OpRow.used, fieldsOf, regField, Fields.under, maskReg_all, encode]

/-- The same by masks: the word keeps of `cw` the bits the row leaves free, and has the row's match in the others. -/
theorem encode_build {row : OpRow} (h : row ∈ opcodeMap) (cw : Word) :
    encode (row.build (fieldsOf cw)) = cw &&& ~~~row.mask ||| row.pattern := by
  obtain ⟨-, hopc, hpat, -⟩ := opcodeMap_shape row h
  have hfree : cw &&& ~~~row.mask = packWord 0 ((fieldsOf cw).under row.used) := by
    conv_lhs => rw [← packWord_fieldsOf cw, ← packWord_fieldsOf (~~~row.mask), packWord_and, hopc, BitVec.and_zero]
    rfl
  rw [encode_build_packed row h, hfree, hpat, packWord_or_opc]

/-- A word that a row matches is the word of the command the row makes of it. -/
theorem encode_build_of_match {cw : Word} {row : OpRow} (h : row ∈ opcodeMap) (hm : cw &&& row.mask = row.pattern) :
    encode (row.build (fieldsOf cw)) = cw := by
  rw [encode_build h, ← hm, ← BitVec.and_or_distrib_left, BitVec.not_or_self, BitVec.and_allOnes]

/-- A command that a row makes has a word that the row matches. -/
theorem encode_build_matches {row : OpRow} (h : row ∈ opcodeMap) (cw : Word) :
    encode (row.build (fieldsOf cw)) &&& row.mask = row.pattern := by
  obtain ⟨-, -, -, hpat⟩ := opcodeMap_shape row h
  rw [encode_build h, BitVec.and_or_distrib_right, BitVec.and_assoc, BitVec.not_and_self, hpat]
  simp

/-- Every command is made by a row from the fields of its own word. -/
theorem exists_row (i : Instr) : ∃ row ∈ opcodeMap, row.build (fieldsOf (encode i)) = i := by
  cases i <;> simp [opcodeMap, moveRows, arithRows, modularRows, bitRows, hashTheoryRows, encode]

/-! ### What `decode` answers, by the row of OPC -/

section

variable {cw : Word} {row : OpRow}

/-- R88: no row has the OPC. -/
theorem decode_of_reserved (h : ∀ row ∈ opcodeMap, opcField cw ≠ row.opc) : decode cw = .error .reservedOpcode := by
  have hfind : opcodeMap.find? (fun row => row.opc == opcField cw) = none :=
    List.find?_eq_none.2 fun row hrow => by simpa using (h row hrow).symm
  rw [decode, hfind]

/-- The decoder looks at the row of OPC, and at no other. -/
theorem decode_of_opc (h : row ∈ opcodeMap) (hopc : opcField cw = row.opc) :
    decode cw = if cw &&& row.mask = row.pattern then
      if (row.build (fieldsOf cw)).wellFormed then .ok (row.build (fieldsOf cw)) else .error .equalDestinations
    else .error .unusedField := by
  have hfind : opcodeMap.find? (fun row => row.opc == opcField cw) = some row := by
    have hsome : (opcodeMap.find? (fun row => row.opc == opcField cw)).isSome :=
      List.find?_isSome.2 ⟨row, h, beq_iff_eq.2 hopc.symm⟩
    obtain ⟨row', hrow'⟩ := Option.isSome_iff_exists.1 hsome
    have hopc' : row'.opc = opcField cw := by simpa using List.find?_some hrow'
    rw [hrow', row_eq_of_opc_eq (List.mem_of_find?_eq_some hrow') h (hopc'.trans hopc)]
  rw [decode, hfind]

theorem decode_of_match (h : row ∈ opcodeMap) (hm : cw &&& row.mask = row.pattern) :
    decode cw = if (row.build (fieldsOf cw)).wellFormed then .ok (row.build (fieldsOf cw))
      else .error .equalDestinations := by
  rw [decode_of_opc h (opcField_eq_of_match h hm), if_pos hm]

/-- R84. -/
theorem decode_of_unused (h : row ∈ opcodeMap) (hopc : opcField cw = row.opc) (hm : cw &&& row.mask ≠ row.pattern) :
    decode cw = .error .unusedField := by
  rw [decode_of_opc h hopc, if_neg hm]

/-- R89: a word whose row makes an ill-formed command of it does not decode, for one reason or the other. -/
theorem decode_of_illFormed (h : row ∈ opcodeMap) (hopc : opcField cw = row.opc)
    (hi : (row.build (fieldsOf cw)).wellFormed = false) : ∃ e, decode cw = .error e := by
  rw [decode_of_opc h hopc, hi]
  split
  · exact ⟨_, rfl⟩
  · exact ⟨_, rfl⟩

/-- A word that decodes matches a row, which makes its command of it. -/
theorem exists_row_of_decode {i : Instr} (h : decode cw = .ok i) :
    ∃ row ∈ opcodeMap, cw &&& row.mask = row.pattern ∧ row.build (fieldsOf cw) = i ∧ i.wellFormed = true := by
  by_cases hrow : ∃ row ∈ opcodeMap, opcField cw = row.opc
  · obtain ⟨row, hmem, hopc⟩ := hrow
    rw [decode_of_opc hmem hopc] at h
    split_ifs at h with hm hi
    cases h
    exact ⟨row, hmem, hm, rfl, hi⟩
  · push Not at hrow
    cases (decode_of_reserved hrow).symm.trans h

end

/-- Settles O1: the word of a command is matched by the row that makes the command of its fields. -/
theorem decodeInvertsEncode : Obligations.DecodeInvertsEncode := by
  intro i hi
  obtain ⟨row, hmem, hbuild⟩ := exists_row i
  have hm : encode i &&& row.mask = row.pattern := by
    rw [← encode_build_matches hmem (encode i), hbuild]
  rw [decode_of_match hmem hm, hbuild, if_pos hi]

/-- Settles O2 by `encode_build_of_match`. -/
theorem encodeInvertsDecode : Obligations.EncodeInvertsDecode := by
  intro cw i h
  obtain ⟨row, hmem, hm, rfl, hi⟩ := exists_row_of_decode h
  exact ⟨hi, encode_build_of_match hmem hm⟩

/-- Settles O3: two rows that match a word have its OPC, so they are one row. -/
theorem decoderFollowsOpcodeMap : Obligations.DecoderFollowsOpcodeMap := by
  intro cw
  refine ⟨fun row hrow row' hrow' hm hm' => ?_, fun row => decode_of_match, decode_of_reserved,
    fun row => decode_of_unused⟩
  have hopc : row.opc = row'.opc := (opcField_eq_of_match hrow hm).symm.trans (opcField_eq_of_match hrow' hm')
  rw [row_eq_of_opc_eq hrow hrow' hopc]

/-- Settles O4: each word is the word of its command, and decodes to it by O1. -/
theorem exampleWordsDecode : Obligations.ExampleWordsDecode := by
  have decodes {cw : Word} {i : Instr} (hi : i.wellFormed = true) (h : encode i = cw) : decode cw = .ok i :=
    h ▸ decodeInvertsEncode i hi
  exact ⟨decodes rfl rfl, decodes rfl rfl, decodes rfl rfl, decodes rfl rfl, decodes rfl rfl, decodes rfl rfl,
    decodes rfl rfl, decodes rfl rfl⟩

end Sys2Proof
end

section
/-! Words that do not decode (R84, R88, R89, R225), and the registers a command leaves (R83). -/

namespace Sys2Proof.Machine

theorem engineTurn_of_pending {s : State} {p : Pending} (h : s.pending = some p) : engineTurn s = runWord p.word s := by
  rw [engineTurn, h]

theorem runWord_of_decode {cw : Word} {i : Instr} (h : decode cw = .ok i) (s : State) : runWord cw s = exec i s := by
  rw [runWord, h]

/-- R225, R226: a word that does not decode raises E_ILLEGAL. -/
theorem runWord_of_illegal {cw : Word} {e : Illegal} (h : decode cw = .error e) (s : State) :
    runWord cw s = .next (errorState .illegal s) := by
  rw [runWord, h]
  rfl

/-- R89: a DIVREM or EEA word in which two destination fields are one register makes an ill-formed command. -/
theorem exists_row_illFormed {cw : Word}
    (h : (opcField cw = 0x15#8 ∧ regField cw 8 = regField cw 12) ∨
      (opcField cw = 0x51#8 ∧
        (regField cw 8 = regField cw 12 ∨ regField cw 8 = regField cw 28 ∨ regField cw 12 = regField cw 28))) :
    ∃ row ∈ opcodeMap, opcField cw = row.opc ∧ (row.build (fieldsOf cw)).wellFormed = false := by
  rcases h with ⟨hopc, hd⟩ | ⟨hopc, hd⟩
  · refine ⟨opcodeMap[7], List.getElem_mem _, hopc, ?_⟩
    show (Instr.divrem ..).wellFormed = false
    simp [Instr.wellFormed, fieldsOf, hd]
  · refine ⟨opcodeMap[21], List.getElem_mem _, hopc, ?_⟩
    show (Instr.eea ..).wellFormed = false
    simp only [Instr.wellFormed, fieldsOf, Bool.and_eq_false_iff, bne_eq_false_iff_eq, or_assoc]
    exact hd

/-- Settles O6: no such word decodes. -/
theorem illegalWordsWriteNothing : Obligations.IllegalWordsWriteNothing := by
  intro s u p hp hu h
  suffices hdec : ∃ e, decode p.word = .error e by
    obtain ⟨e, he⟩ := hdec
    rw [step_engineMoves hu, engineTurn_of_pending ((engineMoves_pending hu).trans hp), runWord_of_illegal he]
  have reg {lo lo' : Nat} (h : p.word.extractLsb' lo 4 = p.word.extractLsb' lo' 4) :
      regField p.word lo = regField p.word lo' := congrArg BitVec.toFin h
  rcases h with hopc | ⟨row, hrow, hopc, hm⟩ | h
  · exact ⟨_, decode_of_reserved hopc⟩
  · exact ⟨_, decode_of_unused hrow hopc hm⟩
  · obtain ⟨row, hrow, hopc, hi⟩ :=
      exists_row_illFormed (h.imp (.imp_right reg) (.imp_right (.imp reg (.imp reg reg))))
    exact decode_of_illFormed hrow hopc hi

/-- A register that is not written keeps what it held. -/
theorem reg_write_of_notMem {ws : List (RegId × Reg)} {r : RegId} (h : r ∉ ws.map Prod.fst) (s : State)
    (g : Flags → Flags) : (s.write ws g).reg r = s.reg r := by
  induction ws generalizing s with
  | nil => rfl
  | cons w ws ih =>
    obtain ⟨hw, hws⟩ : r ≠ w.1 ∧ r ∉ ws.map Prod.fst := by simpa using h
    have hrest := ih hws (s.setReg w.1 w.2)
    rw [State.reg_setReg, if_neg hw] at hrest
    exact hrest

/-- Settles O9: a command that succeeds writes its destinations, and one that fails writes none. -/
theorem onlyDestinationsWritten : Obligations.OnlyDestinationsWritten := by
  intro i s t h r hr
  rcases exec_actsAlike i s with ⟨code, -, -, hc⟩ | ⟨ws, g, hdests, -, -, hc⟩
  · cases (hc s (.refl i s)).symm.trans h
    rfl
  · cases (hc s (.refl i s)).symm.trans h
    exact reg_write_of_notMem (hdests ▸ hr) s g

end Sys2Proof.Machine
end

section
/-! SUPPORT. The host sequences of R92: a command word written, any number of reads of BUSY = 1, the completion, and the
read of BUSY = 0. -/

namespace Sys2Proof.Machine

/-- The state with another input order and other data last read, of which a command uses neither. -/
def State.atPort (s : State) (l : List Event) (x : Option Word) : State := { s with inputs := l, readData := x }

/-- A command does the same whatever is on its way to the port and whatever has been read. -/
theorem exec_atPort {i : Instr} {s t : State} (h : exec i s = .next t) (l : List Event) (x : Option Word) :
    exec i (s.atPort l x) = .next (t.atPort l x) := by
  have halike : ReadsAlike i s (s.atPort l x) := ⟨rfl, rfl, fun _ => rfl, fun _ => rfl, fun _ _ => rfl⟩
  rcases exec_actsAlike i s with ⟨code, -, -, hc⟩ | ⟨ws, g, -, -, -, hc⟩
  · cases (hc s (.refl i s)).symm.trans h
    exact hc _ halike
  · cases (hc s (.refl i s)).symm.trans h
    exact hc _ halike

/-- A run goes on from where a shorter run ends. -/
theorem run_add {s t : State} {k : Nat} (h : Sys2Proof.core.run k s = .next t) (m : Nat) :
    Sys2Proof.core.run (k + m) s = Sys2Proof.core.run m t := by
  induction k generalizing s with
  | zero =>
    cases h
    rw [Nat.zero_add]
  | succ k ih =>
    rcases hs : step s with u | r | r
    · rw [run_succ hs] at h
      rw [Nat.add_right_comm, run_succ hs, ih h]
    · cases r
    · have hr : Sys2Proof.core.step s = .refused r := hs
      simp only [Host.Core.run, hr] at h
      cases h

/-- R92: `WAIT` runs the command that is pending, and ends with a read of STATUS after it. -/
theorem run_waitEvents {i : Instr} {s : State} {p : Pending} (hp : s.pending = some p) (hi : decode p.word = .ok i)
    (hs : s.inputs = []) (k : Nat) :
    ∃ t, exec i s = .next t ∧ t.busy = false ∧
      Sys2Proof.core.run (k + 2) (s.withInputs (waitEvents s.cfg k)) = .next { t with readData := some (statusWord t) } := by
  obtain ⟨u, code, h, hw⟩ := exec_ends i s
  obtain ⟨regs, flags, rfl⟩ := hw.frame
  refine ⟨_, h, rfl, ?_⟩
  set t := State.complete { s with regs := regs, flags := flags } code
  let last := memRead s.cfg 0x008
  obtain ⟨x, hreads⟩ := run_statusReads k s [.engine, last]
  have hcompletes : step (s.atPort [.engine, last] x) = .next (t.atPort [last] x) := by
    have hturn : EngineMoves (s.atPort [.engine, last] x) (s.atPort [last] x) := .inr ⟨_, rfl, rfl⟩
    rw [step_engineMoves hturn, engineTurn_of_pending (s := s.atPort [last] x) hp, runWord_of_decode hi, exec_atPort h]
  have hlast : step (t.atPort [last] x) = .next (t.atPort [] (some (statusWord t))) :=
    step_memRead_plain (t.atPort [] x) [] (by omega) rfl (.inl rfl)
  have ht : t.atPort [] (some (statusWord t)) = { t with readData := some (statusWord t) } := by
    rw [← hs]; rfl
  calc Sys2Proof.core.run (k + 2) (s.withInputs (waitEvents s.cfg k))
    _ = Sys2Proof.core.run 2 (s.atPort [.engine, last] x) := run_add hreads 2
    _ = Sys2Proof.core.run 1 (t.atPort [last] x) := run_succ hcompletes 1
    _ = .next (t.atPort [] (some (statusWord t))) := run_succ hlast 0
    _ = .next { t with readData := some (statusWord t) } := by rw [ht]

/-- `step_memWrite` for a state whose oldest input is a write. -/
theorem step_of_memWrite {s : State} {rest : List Event} {off : Nat} {v : Word} (hs : s.inputs = memWrite s.cfg off v :: rest)
    (h : off < 0x20000 := by omega) (h4 : off % 4 = 0 := by omega) :
    step s = .next (hostWrite (s.withInputs rest) (winReg off) v) := by
  have hstep := step_memWrite s rest v h h4
  rwa [← hs] at hstep

/-- R92: the sequence of a command without ARG accepts its word and runs it. -/
theorem run_commandEvents {i : Instr} {s : State} (hp : s.pending = none) (hi : i.wellFormed = true) {k : Nat}
    (hs : s.inputs = commandEvents s.cfg k i) :
    ∃ t, exec i ((s.withInputs []).accept (encode i)) = .next t ∧
      Sys2Proof.core.run (k + 3) s = .next { t with readData := some (statusWord t) } ∧ t.busy = false := by
  let u := (s.withInputs []).accept (encode i)
  obtain ⟨t, h, hbusy, hrun⟩ := run_waitEvents (s := u) rfl (decodeInvertsEncode i hi) rfl k
  have hcmd : step s = .next (u.withInputs (waitEvents s.cfg k)) :=
    (step_of_memWrite hs).trans (congrArg _ (hostWrite_cmd_idle (s := s.withInputs (waitEvents s.cfg k)) hp _))
  exact ⟨t, h, (run_succ hcmd _).trans hrun, hbusy⟩

/-- The state in which a sequence of R92 runs its command: ARG written, the word accepted, nothing more on its way. -/
def State.acceptWithArg (s : State) (v : Word) (i : Instr) : State :=
  ({ s with arg := v, inputs := [] } : State).accept (encode i)

/-- R92: the sequence of a command with ARG writes ARG first. -/
theorem run_argCommandEvents {i : Instr} {s : State} {v : Word} (hp : s.pending = none) (hi : i.wellFormed = true)
    {k : Nat} (hs : s.inputs = argCommandEvents s.cfg k v i) :
    ∃ t, exec i (s.acceptWithArg v i) = .next t ∧
      Sys2Proof.core.run (k + 4) s = .next { t with readData := some (statusWord t) } ∧ t.busy = false := by
  let u : State := { s with arg := v, inputs := commandEvents s.cfg k i }
  obtain ⟨t, h, hrun, hbusy⟩ := run_commandEvents (s := u) hp hi rfl
  have harg : step s = .next u :=
    (step_of_memWrite hs).trans (congrArg _ (hostWrite_arg_idle (s := s.withInputs (commandEvents s.cfg k i)) hp v))
  exact ⟨t, h, (run_succ harg _).trans hrun, hbusy⟩

end Sys2Proof.Machine
end

section
/-! SHIFT as a write of one value (R150), and the pseudo-instructions of R92. -/

namespace Sys2Proof.Machine

theorem bitlen_mul_two_pow {x : Nat} (hx : x ≠ 0) (n : Nat) : bitlen (x * 2 ^ n) = bitlen x + n := by
  have hlog : (x * 2 ^ n).log2 = x.log2 + n := by
    induction n with
    | zero => rw [Nat.pow_zero, Nat.mul_one, Nat.add_zero]
    | succ n ih => rw [Nat.pow_succ', Nat.mul_left_comm, Nat.log2_two_mul (by positivity), ih, Nat.add_assoc]
  rw [bitlen, bitlen, if_neg hx, if_neg (by positivity), hlog, Nat.add_right_comm]

/-- R150: the words of a shift, measured before it is made, are those of its result. -/
theorem wordsForBits_shiftedBits (x n : Nat) : wordsForBits (shiftedBits x n) = clen (x * 2 ^ n) := by
  rw [shiftedBits, clen]
  split
  · simp [*, bitlen_zero]
  · rw [bitlen_mul_two_pow ‹_›]

theorem shiftLeftValue_eq (x n : Nat) : shiftLeftValue x n = x * 2 ^ n := by
  unfold shiftLeftValue
  split
  · simp [*]
  · rfl

theorem shiftRightValue_eq (x n : Nat) : shiftRightValue x n = x / 2 ^ n := by
  unfold shiftRightValue
  split
  · rw [Nat.div_eq_of_lt ((bitlen_le_iff x n).1 ‹_›)]
  · rfl

/-- R150: SHIFT by a count of 0 or more is a multiplication. -/
theorem execShift_of_nonneg {s : State} {n : Nat} (h : s.argInt = n) (d a : RegId) :
    execShift d a s = writeOrCap s d (s.x a * 2 ^ n) := by
  have harg : s.argInt = .ofNat n := h
  simp only [execShift, harg, wordsForBits_shiftedBits, shiftLeftValue_eq, writeOrCap, State.fits, decide_eq_true_eq]

/-- R150: SHIFT by a count below 0 is a division. -/
theorem execShift_of_neg {s : State} {n : Nat} (h : s.argInt = -n) (hn : 1 ≤ n) (d a : RegId) :
    execShift d a s = writeOrCap s d (s.x a / 2 ^ n) := by
  obtain ⟨m, rfl⟩ := Nat.exists_eq_add_of_le' hn
  have harg : s.argInt = .negSucc m := h
  simp only [execShift, harg, shiftRightValue_eq]

/-- R26: a value that fits is written. -/
theorem writeOrCap_of_le {s : State} {v : Nat} (h : clen v ≤ s.cfg.maxw) (d : RegId) :
    writeOrCap s d v = .next ((s.writeValue d v).complete .ok) := by
  obtain ⟨-, hw⟩ | ⟨hlt, -⟩ := writeOrCap_cases s d v
  · exact hw
  · omega

/-- The count that SHL puts into ARG, read as SHIFT reads it (R85, R92). -/
theorem toInt_shlArg {n : Nat} (h : n ≤ 2 ^ 31 - 1) : (BitVec.ofNat 32 n).toInt = n := by
  rw [BitVec.toInt_eq_toNat_cond, BitVec.toNat_ofNat]
  split <;> omega

/-- The count that SHR puts into ARG, read as SHIFT reads it (R85, R92). -/
theorem toInt_shrArg {n : Nat} (h1 : 1 ≤ n) (h2 : n ≤ 2 ^ 31) :
    (BitVec.ofNat 32 ((2 ^ 32 - n) % 2 ^ 32)).toInt = -n := by
  rw [BitVec.toInt_eq_toNat_cond, BitVec.toNat_ofNat]
  split <;> omega

/-- R101: LDI of a value that fits. -/
theorem execLdi_of_le {s : State} {v : Nat} (harg : s.argNat = v) (h : clen v ≤ s.cfg.maxw) (d : RegId) :
    execLdi d s = writeOrCap s d v := by
  rw [writeOrCap_of_le h, ← harg]
  rfl

/-- R92: the sequence of a command that writes one value, where the value fits. -/
theorem run_argCommandEvents_writes {i : Instr} {s : State} {v : Word} {d : RegId} {x k : Nat} (hp : s.pending = none)
    (hi : i.wellFormed = true) (hs : s.inputs = argCommandEvents s.cfg k v i) (hx : clen x ≤ s.cfg.maxw)
    (h : exec i (s.acceptWithArg v i) = writeOrCap (s.acceptWithArg v i) d x) :
    ∃ t : State, Sys2Proof.core.run (k + 4) s = .next t ∧ Holds t d x ∧ RegsKept [d] s t ∧ t.errcode = .ok := by
  obtain ⟨t, ht, hrun, -⟩ := run_argCommandEvents hp hi hs
  have hwrite := h.trans (writeOrCap_of_le (s := s.acceptWithArg v i) hx d)
  cases hwrite.symm.trans ht
  refine ⟨_, hrun, State.holds_writeValue (s := s) hx ?_ rfl, RegsKept_setReg (s.acceptWithArg v i) d _, rfl⟩
  exact (State.reg_writeValue (s.acceptWithArg v i) d d x).trans (if_pos rfl)

/-- Settles O60: each sequence is that of its command (`run_argCommandEvents`, `run_commandEvents`), of which LDI and SHIFT
write one value, or it is a REGLEN write. -/
theorem pseudoInstructionsRun : Obligations.PseudoInstructionsRun := by
  rintro s d a m n k v i ⟨-, hregs, -⟩ hp
  refine ⟨fun q hq hwf hs => ?_, fun q hq hwf hs => ?_, fun q hq hwf hs hfits => ?_, fun hs => ?_⟩
  · have hexpand : q.1.expand s.cfg k = argCommandEvents s.cfg k q.2.1 q.2.2 ∧ q.2.2.wellFormed = true := by
      simp only [List.mem_cons, List.not_mem_nil, or_false] at hq
      obtain rfl | rfl | rfl | rfl | rfl | rfl | rfl | rfl := hq <;> exact ⟨rfl, rfl⟩
    exact run_argCommandEvents hp hexpand.2 (hs.trans hexpand.1)
  · simp only [List.mem_cons, List.not_mem_nil, or_false] at hq
    obtain rfl | rfl := hq
    · exact run_commandEvents hp rfl hs
    · exact run_commandEvents hp hwf hs
  · simp only [List.mem_cons, List.not_mem_nil, or_false] at hq
    obtain rfl | rfl | rfl | rfl := hq
    · exact run_argCommandEvents_writes hp rfl hs hfits (execLdi_of_le (s := s.acceptWithArg _ _) rfl hfits d)
    · obtain ⟨-, hn⟩ := of_decide_eq_true hwf
      exact run_argCommandEvents_writes hp rfl hs hfits (execShift_of_nonneg (s := s.acceptWithArg _ _) (toInt_shlArg hn) d a)
    · obtain ⟨hpos, hn⟩ := of_decide_eq_true hwf
      exact run_argCommandEvents_writes hp rfl hs hfits
        (execShift_of_neg (s := s.acceptWithArg _ _) (toInt_shrArg hpos hn) hpos d a)
    · exact run_argCommandEvents_writes hp rfl hs hfits (execLdi_of_le (s := s.acceptWithArg 0 _) (v := 0) rfl hfits d)
  · have hd := d.isLt
    have hidle : (s.withInputs []).pending = none := hp
    obtain ⟨hlen, -, -, hx, hkept⟩ := State.setLen_effect (s := s.withInputs []) hregs d (Nat.zero_le _)
    have hstep := step_of_memWrite hs
    rw [winReg_reglen, hostWrite_reglen_idle hidle, writeReglen_of_le (s := s.withInputs []) (Nat.zero_le _)] at hstep
    exact ⟨_, run_succ hstep 0, hlen, hx.trans (Nat.mod_one _), hkept⟩

end Sys2Proof.Machine
end

section
/-! Register transfer (R100, R101): a register written as a whole, and a value written canonically. -/

namespace Sys2Proof

/-- R9: the value of a single word takes one word, 0 included. -/
theorem clen_toNat (w : Word) : clen w.toNat = 1 :=
  ((clen_le_iff w.toNat 1 (Nat.le_refl 1)).2 w.isLt).antisymm (one_le_clen _)

end Sys2Proof

namespace Sys2Proof.Machine

theorem completed_setReg (s : State) (d : RegId) (r : Reg) : Completed .ok s ((s.setReg d r).complete .ok) :=
  completed_complete ⟨rfl, rfl, rfl, rfl, rfl, rfl, rfl, rfl⟩

/-- R25, R224: a command that ends with the canonical write of a value that fits has written that value and no more. -/
theorem wroteOne_writeValue {s : State} {v : Nat} (hv : clen v ≤ s.cfg.maxw) (d : RegId) :
    WroteOne s ((s.writeValue d v).complete .ok) d v :=
  ⟨State.holds_writeValue hv ((State.reg_writeValue s d d v).trans (if_pos rfl)) rfl,
    RegsKept_setReg s d _, rfl, completed_setReg s d _⟩

theorem WroteOne.len_eq {s t : State} {d : RegId} {v : Nat} (h : WroteOne s t d v) : t.len d = clen v := by
  obtain ⟨⟨hlen, -, -⟩, -⟩ := h
  exact hlen

theorem State.argNat_of_pending {s : State} {p : Pending} (hp : s.pending = some p) : s.argNat = p.arg.toNat := by
  rw [State.argNat, State.capturedArg, hp]

/-- Settles O15: LDI is the canonical write of one word, which every legal MAXW holds. -/
theorem ldiLoadsArg : Obligations.LdiLoadsArg := by
  intro s p d hp hmaxw
  have hlen : clen p.arg.toNat = 1 := clen_toNat p.arg
  have hwrote := wroteOne_writeValue (s := s) (v := p.arg.toNat) (by omega) d
  have hexec : exec (.ldi d) s = .next ((s.writeValue d p.arg.toNat).complete .ok) := by
    rw [← State.argNat_of_pending hp]
    rfl
  exact ⟨_, hexec, hwrote, hwrote.len_eq.trans hlen⟩

/-- Settles O14: the destination is the source's register as a whole, so it has the same LEN, words and value. -/
theorem movCopiesExactly : Obligations.MovCopiesExactly := by
  intro s d a
  have hreg : ((s.setReg d (s.reg a)).complete .ok).reg d = s.reg a :=
    (State.reg_setReg s d d (s.reg a)).trans (if_pos rfl)
  exact ⟨_, rfl, congrArg Reg.len hreg, fun j => congrArg (Reg.word · j) hreg, congrArg Reg.value hreg,
    RegsKept_setReg s d _, rfl, completed_setReg s d _⟩

end Sys2Proof.Machine
end

section
/-! Base arithmetic (R110 to R115): one canonical write, or an error that writes nothing. -/

namespace Sys2Proof.Machine

theorem RegsKept.append {s u t : State} {l l' : List RegId} (h : RegsKept l s u) (h' : RegsKept l' u t) :
    RegsKept (l ++ l') s t := fun r hr => by
  rw [List.mem_append, not_or] at hr
  exact (h' r hr.2).trans (h r hr.1)

theorem RegsKept_writeValue (s : State) (d : RegId) (v : Nat) : RegsKept [d] s (s.writeValue d v) := RegsKept_setReg s d _

/-- R26: a command that ends with the write-or-E_CAP operation writes the value exactly when it fits. -/
theorem writeOrCap_exact (s : State) (d : RegId) (v : Nat) :
    (clen v ≤ s.cfg.maxw → ∃ t, writeOrCap s d v = .next t ∧ WroteOne s t d v) ∧
      (s.cfg.maxw < clen v → writeOrCap s d v = .next (errorState .cap s)) := by
  refine ⟨fun hfit => ⟨_, writeOrCap_of_le hfit d, wroteOne_writeValue hfit d⟩, fun hlt => ?_⟩
  obtain ⟨hfit, -⟩ | ⟨-, hcap⟩ := writeOrCap_cases s d v
  · omega
  · exact hcap

/-- Settles O16: ADD is the write-or-E_CAP operation on the sum. -/
theorem addIsExact : Obligations.AddIsExact := fun s d a b => writeOrCap_exact s d (s.x a + s.x b)

/-- Settles O18: MUL is the write-or-E_CAP operation on the product. -/
theorem mulIsExact : Obligations.MulIsExact := fun s d a b => writeOrCap_exact s d (s.x a * s.x b)

/-- R111: SUB of a value that is not larger. -/
theorem exec_sub_of_le {s : State} {a b : RegId} (h : s.x b ≤ s.x a) (d : RegId) :
    exec (.sub d a b) s = succeed (s.writeValue d (s.x a - s.x b)) := if_neg (Nat.not_lt.2 h)

/-- R113, for a divisor that is not 0. -/
theorem exec_divq_of_ne_zero {s : State} {b : RegId} (h : s.x b ≠ 0) (d a : RegId) :
    exec (.divq d a b) s = succeed (s.writeValue d (s.x a / s.x b)) := by
  rw [exec, execDivq, if_neg h, restoringDivide_eq _ (Nat.pos_of_ne_zero h)]

/-- R114, for a divisor that is not 0. -/
theorem exec_mod_of_ne_zero {s : State} {b : RegId} (h : s.x b ≠ 0) (d a : RegId) :
    exec (.mod d a b) s = succeed (s.writeValue d (s.x a % s.x b)) := by
  rw [exec, execMod, if_neg h, restoringDivide_eq _ (Nat.pos_of_ne_zero h)]

/-- R115, for distinct destinations and a divisor that is not 0. -/
theorem exec_divrem_of_ne_zero {s : State} {d e b : RegId} (hde : d ≠ e) (h : s.x b ≠ 0) (a : RegId) :
    exec (.divrem d e a b) s = succeed ((s.writeValue d (s.x a / s.x b)).writeValue e (s.x a % s.x b)) := by
  rw [exec, execDivrem, if_neg hde, if_neg h, restoringDivide_eq _ (Nat.pos_of_ne_zero h)]

/-- A result no larger than a register's value fits (R26), so a command that ends with its canonical write has written it. -/
theorem writes_of_le_x {i : Instr} {s : State} {d : RegId} {v : Nat} (hm : 16 ≤ s.cfg.maxw) (hs : s.regsWf) (a : RegId)
    (hle : v ≤ s.x a) (h : exec i s = succeed (s.writeValue d v)) : ∃ t, exec i s = .next t ∧ WroteOne s t d v :=
  ⟨_, h, wroteOne_writeValue (State.representable_of_le_x a hle hm hs) d⟩

/-- Settles O17: the check of R111, then the write of a difference, which is at most the first value. -/
theorem subIsExact : Obligations.SubIsExact := fun _ d a _ hm hs =>
  ⟨fun hle => writes_of_le_x hm hs a (Nat.sub_le _ _) (exec_sub_of_le hle d), fun hlt => if_pos hlt⟩

/-- Settles O19: quotient and remainder are at most the dividend. -/
theorem divqAndModDivide : Obligations.DivqAndModDivide := fun _ d a _ hm hs =>
  ⟨fun hb => ⟨writes_of_le_x hm hs a (Nat.div_le_self _ _) (exec_divq_of_ne_zero hb d a),
    writes_of_le_x hm hs a (Nat.mod_le _ _) (exec_mod_of_ne_zero hb d a)⟩,
    fun hb => ⟨if_pos hb, if_pos hb⟩⟩

/-- R25, R115: two canonical writes to distinct registers hold both values. -/
theorem holds_writeValue_writeValue {s : State} {d e : RegId} {q r : Nat} (hde : d ≠ e) (hq : clen q ≤ s.cfg.maxw)
    (hr : clen r ≤ s.cfg.maxw) :
    let t := ((s.writeValue d q).writeValue e r).complete .ok
    Holds t d q ∧ Holds t e r :=
  ⟨State.holds_writeValue hq (by simp [hde]) rfl, State.holds_writeValue hr (by simp) rfl⟩

/-- Settles O20: both results come from one division of the values before, and the second write leaves the first. -/
theorem divremDivides : Obligations.DivremDivides := by
  intro s d e a b hm hs hde
  refine ⟨fun hb => ?_, fun hb => (if_neg hde).trans (if_pos hb)⟩
  have hq : clen (s.x a / s.x b) ≤ s.cfg.maxw := State.representable_of_le_x a (Nat.div_le_self _ _) hm hs
  have hr : clen (s.x a % s.x b) ≤ s.cfg.maxw := State.representable_of_le_x a (Nat.mod_le _ _) hm hs
  obtain ⟨hd, he⟩ := holds_writeValue_writeValue hde hq hr
  have hkept := (RegsKept_writeValue s d (s.x a / s.x b)).append (RegsKept_writeValue _ e (s.x a % s.x b))
  exact ⟨_, exec_divrem_of_ne_zero hde hb a, hd, he, hkept, rfl,
    completed_complete ⟨rfl, rfl, rfl, rfl, rfl, rfl, rfl, rfl⟩⟩

/-- Settles O21: the loop of R116 divides (`restoringDivide_eq`). -/
theorem restoringDivisionDivides : Obligations.RestoringDivisionDivides := fun a _ hb => restoringDivide_eq a hb

end Sys2Proof.Machine
end

section
/-! The laws of R117, each over two commands. -/

namespace Sys2Proof.Machine

namespace WroteOne

variable {s t : State} {d : RegId} {v : Nat}

theorem x_eq (h : WroteOne s t d v) : t.x d = v := by
  obtain ⟨⟨-, hx, -⟩, -⟩ := h
  exact hx

theorem x_of_ne (h : WroteOne s t d v) {r : RegId} (hr : r ≠ d) : t.x r = s.x r := by
  obtain ⟨-, hkept, -⟩ := h
  exact congrArg Reg.value (hkept r (by simpa using hr))

theorem cfg_eq (h : WroteOne s t d v) : t.cfg = s.cfg := by
  obtain ⟨-, -, -, -, -, -, hcfg, -⟩ := h
  exact hcfg

theorem errcode_eq (h : WroteOne s t d v) : t.errcode = .ok := by
  obtain ⟨-, -, -, -, -, hcode, -⟩ := h
  exact hcode

end WroteOne

/-- R117: a second command that writes the value of `a` before the first one, which fits there, gives that value back. -/
theorem returns_of_wroteOne {i j : Instr} {s t : State} {d e a : RegId} {v w : Nat} (cw : Word) (hm : 16 ≤ s.cfg.maxw)
    (hs : s.regsWf) (hi : exec i s = .next t) (hw : WroteOne s t d v) (hback : w = s.x a)
    (hj : exec j (t.accept cw) = succeed ((t.accept cw).writeValue e w)) :
    ∃ t u, exec i s = .next t ∧ exec j (t.accept cw) = .next u ∧ u.errcode = .ok ∧ u.x e = s.x a := by
  have hfit : clen w ≤ (t.accept cw).cfg.maxw := by
    rw [State.accept_cfg, hw.cfg_eq]
    exact State.representable_of_le_x a hback.le hm hs
  have hw' : WroteOne (t.accept cw) _ e w := wroteOne_writeValue hfit e
  exact ⟨t, _, hi, hj, hw'.errcode_eq, hw'.x_eq.trans hback⟩

/-- Settles O24: the second command reads the first result in `d` and, since `d` is not `b`, the second value as it was. -/
theorem arithmeticRoundTrips : Obligations.ArithmeticRoundTrips := by
  intro s d e a b cw hm hs hdb
  refine ⟨fun hfit => ?_, fun hfit hb => ?_⟩
  · obtain ⟨t, hadd, hw⟩ := (addIsExact s d a b).1 hfit
    have hd : (t.accept cw).x d = s.x a + s.x b := hw.x_eq
    have hb : (t.accept cw).x b = s.x b := hw.x_of_ne hdb.symm
    refine returns_of_wroteOne cw hm hs hadd hw ?_ (exec_sub_of_le ?_ e)
    · rw [hd, hb, Nat.add_sub_cancel]
    · rw [hd, hb]; exact Nat.le_add_left _ _
  · obtain ⟨t, hmul, hw⟩ := (mulIsExact s d a b).1 hfit
    have hd : (t.accept cw).x d = s.x a * s.x b := hw.x_eq
    have hb' : (t.accept cw).x b = s.x b := hw.x_of_ne hdb.symm
    refine returns_of_wroteOne cw hm hs hmul hw ?_ (exec_divq_of_ne_zero (hb' ▸ hb) e d)
    rw [hd, hb', Nat.mul_div_cancel _ (Nat.pos_of_ne_zero hb)]

end Sys2Proof.Machine
end

section
/-! The word-level forms of R110 and R111: what each position keeps, carry and borrow included. -/

namespace Sys2Proof.Machine

/-- One word more is 32 bits more (R9). -/
theorem two_pow_words_succ (n : Nat) : 2 ^ (32 * (n + 1)) = 2 ^ 32 * 2 ^ (32 * n) := by
  rw [Nat.mul_succ, Nat.pow_add, Nat.mul_comm]

theorem length_addWords (n : Nat) (a b : List Word) (c : Nat) : (addWords n a b c).length = n := by
  induction n generalizing a b c with
  | zero => rfl
  | succ n ih => rw [addWords, List.length_cons, ih]

/-- R110, with carry in `c`: one position more than the operands have words takes the last carry. -/
theorem valueOf_addWords {n c : Nat} {a b : List Word} (ha : a.length = n) (hb : b.length = n) (hc : c ≤ 1) :
    valueOf (addWords (n + 1) a b c) = valueOf a + valueOf b + c := by
  induction n generalizing a b c with
  | zero =>
    obtain rfl := List.length_eq_zero_iff.1 ha
    obtain rfl := List.length_eq_zero_iff.1 hb
    have hword : c < 2 ^ 32 := by omega
    simpa [addWords, valueOf] using hword
  | succ n ih =>
    obtain ⟨x, xs, rfl⟩ := List.exists_cons_of_length_eq_add_one ha
    obtain ⟨y, ys, rfl⟩ := List.exists_cons_of_length_eq_add_one hb
    have hx := x.isLt
    have hy := y.isLt
    have hrest := ih (Nat.succ.inj ha) (Nat.succ.inj hb) (c := (x.toNat + y.toNat + c) / 2 ^ 32) (by omega)
    simp only [addWords, List.headD_cons, List.tail_cons, valueOf, BitVec.toNat_ofNat] at hrest ⊢
    omega

theorem length_subWords (n : Nat) (a b : List Word) (br : Nat) : (subWords n a b br).1.length = n := by
  induction n generalizing a b br with
  | zero => rfl
  | succ n ih => rw [subWords, List.length_cons, ih]

/-- R111: a position that borrows from the next. -/
theorem subWords_cons_of_neg {x y : Word} {br : Nat} (h : (x.toNat : Int) - y.toNat - br < 0) (n : Nat) (xs ys : List Word) :
    subWords (n + 1) (x :: xs) (y :: ys) br =
      (BitVec.ofInt 32 (x.toNat - y.toNat - br + 2 ^ 32) :: (subWords n xs ys 1).1, (subWords n xs ys 1).2) := by
  simp [subWords, h]

/-- R111: a position that does not borrow. -/
theorem subWords_cons_of_nonneg {x y : Word} {br : Nat} (h : ¬(x.toNat : Int) - y.toNat - br < 0) (n : Nat)
    (xs ys : List Word) :
    subWords (n + 1) (x :: xs) (y :: ys) br =
      (BitVec.ofInt 32 (x.toNat - y.toNat - br) :: (subWords n xs ys 0).1, (subWords n xs ys 0).2) := by
  simp [subWords, h]

/-- A difference in the range of a word is that word's value. -/
theorem toNat_ofInt_of_range {z : Int} (h0 : 0 ≤ z) (h : z < 2 ^ 32) : ((BitVec.ofInt 32 z).toNat : Int) = z := by
  rw [BitVec.toNat_ofInt, Int.toNat_of_nonneg (by omega)]
  exact Int.emod_eq_of_lt h0 h

/-- R111, with borrow in `br`: the words and the value taken away are the value taken from and, where the last borrow is 1,
2^(32n). -/
theorem valueOf_subWords {n br : Nat} {a b : List Word} (ha : a.length = n) (hb : b.length = n) (hbr : br ≤ 1) :
    valueOf (subWords n a b br).1 + valueOf b + br = valueOf a + 2 ^ (32 * n) * (subWords n a b br).2 := by
  induction n generalizing a b br with
  | zero =>
    obtain rfl := List.length_eq_zero_iff.1 ha
    obtain rfl := List.length_eq_zero_iff.1 hb
    simp [subWords, valueOf]
  | succ n ih =>
    obtain ⟨x, xs, rfl⟩ := List.exists_cons_of_length_eq_add_one ha
    obtain ⟨y, ys, rfl⟩ := List.exists_cons_of_length_eq_add_one hb
    have hx := x.isLt
    have hy := y.isLt
    by_cases hneg : (x.toNat : Int) - y.toNat - br < 0
    · simp only [subWords_cons_of_neg hneg, valueOf, two_pow_words_succ, Nat.mul_assoc]
      have hword := toNat_ofInt_of_range (z := x.toNat - y.toNat - br + 2 ^ 32) (by omega) (by omega)
      have hrest := ih (Nat.succ.inj ha) (Nat.succ.inj hb) (Nat.le_refl 1)
      omega
    · simp only [subWords_cons_of_nonneg hneg, valueOf, two_pow_words_succ, Nat.mul_assoc]
      have hword := toNat_ofInt_of_range (z := x.toNat - y.toNat - br) (by omega) (by omega)
      have hrest := ih (Nat.succ.inj ha) (Nat.succ.inj hb) (Nat.zero_le 1)
      omega

/-- Settles O22: the chains from carry and borrow 0. A last borrow would make the words of the difference 2^(32n) or more. -/
theorem carryAndBorrowChains : Obligations.CarryAndBorrowChains := by
  intro n a b ha hb
  refine ⟨length_addWords _ a b 0, length_subWords n a b 0, valueOf_addWords ha hb (Nat.zero_le 1), fun hle => ?_⟩
  have hsub := valueOf_subWords ha hb (Nat.zero_le 1)
  have hlt := valueOf_lt (subWords n a b 0).1
  rw [length_subWords] at hlt
  have hborrow : (subWords n a b 0).2 = 0 := by
    by_contra h
    have := Nat.le_mul_of_pos_right (2 ^ (32 * n)) (Nat.pos_of_ne_zero h)
    omega
  rw [hborrow, Nat.mul_zero] at hsub
  exact ⟨by omega, hborrow⟩

end Sys2Proof.Machine
end

section
/-! The grade-school product of R112, modulo what its accumulator holds. -/

namespace Sys2Proof.Machine

theorem length_accumulate (acc : List Word) (pos p : Nat) : (accumulate acc pos p).length = acc.length := by
  induction acc, pos, p using accumulate.induct with
  | case1 => rfl
  | case2 w ws p ih => rw [accumulate, List.length_cons, ih, List.length_cons]
  | case3 w ws pos p ih => rw [accumulate, List.length_cons, ih, List.length_cons]

theorem length_accumulateRow (acc : List Word) (m : Word) (b : List Word) (pos : Nat) :
    (accumulateRow acc m b pos).length = acc.length := by
  induction b generalizing acc pos with
  | nil => rfl
  | cons y ys ih => rw [accumulateRow, ih, length_accumulate]

theorem length_accumulateRows (acc b a : List Word) (pos : Nat) : (accumulateRows acc b a pos).length = acc.length := by
  induction a generalizing acc pos with
  | nil => rfl
  | cons m ms ih => rw [accumulateRows, ih, length_accumulateRow]

theorem length_mulWords (a b : List Word) : (mulWords a b).length = a.length + b.length := by
  rw [mulWords, length_accumulateRows, List.length_replicate]

/-- A word and the words above it, modulo one word more than the words above. -/
theorem modEq_word_add {x y n : Nat} (r : Nat) (h : x ≡ y [MOD 2 ^ (32 * n)]) :
    r + 2 ^ 32 * x ≡ r + 2 ^ 32 * y [MOD 2 ^ (32 * (n + 1))] := by
  rw [two_pow_words_succ]
  exact (h.mul_left' (2 ^ 32)).add_left r

/-- R112: adding `p` in at word `pos`; a carry out of the last word is lost. -/
theorem valueOf_accumulate (acc : List Word) (pos p : Nat) :
    valueOf (accumulate acc pos p) ≡ valueOf acc + 2 ^ (32 * pos) * p [MOD 2 ^ (32 * acc.length)] := by
  induction acc, pos, p using accumulate.induct with
  | case1 => exact Nat.modEq_one
  | case2 w ws p ih =>
    have hcarry := modEq_word_add ((w.toNat + p) % 2 ^ 32) ih
    have hsum : (w.toNat + p) % 2 ^ 32 + 2 ^ 32 * (valueOf ws + 2 ^ (32 * 0) * ((w.toNat + p) / 2 ^ 32)) =
        w.toNat + 2 ^ 32 * valueOf ws + 2 ^ (32 * 0) * p := by omega
    rw [hsum] at hcarry
    simpa [accumulate, valueOf] using hcarry
  | case3 w ws pos p ih =>
    have hshift : w.toNat + 2 ^ 32 * (valueOf ws + 2 ^ (32 * pos) * p) =
        w.toNat + 2 ^ 32 * valueOf ws + 2 ^ (32 * (pos + 1)) * p := by ring
    exact hshift ▸ modEq_word_add w.toNat ih

/-- R112: one row, a word of the first factor times the words of the second. -/
theorem valueOf_accumulateRow (acc : List Word) (m : Word) (b : List Word) (pos : Nat) :
    valueOf (accumulateRow acc m b pos) ≡ valueOf acc + 2 ^ (32 * pos) * (m.toNat * valueOf b)
      [MOD 2 ^ (32 * acc.length)] := by
  induction b generalizing acc pos with
  | nil => exact Nat.ModEq.rfl
  | cons y ys ih =>
    have hrest := ih (accumulate acc pos (m.toNat * y.toNat)) (pos + 1)
    rw [length_accumulate] at hrest
    calc valueOf (accumulateRow acc m (y :: ys) pos)
        ≡ valueOf (accumulate acc pos (m.toNat * y.toNat)) + 2 ^ (32 * (pos + 1)) * (m.toNat * valueOf ys)
          [MOD 2 ^ (32 * acc.length)] := hrest
      _ ≡ valueOf acc + 2 ^ (32 * pos) * (m.toNat * y.toNat) + 2 ^ (32 * (pos + 1)) * (m.toNat * valueOf ys)
          [MOD 2 ^ (32 * acc.length)] := (valueOf_accumulate ..).add_right _
      _ = valueOf acc + 2 ^ (32 * pos) * (m.toNat * valueOf (y :: ys)) := by rw [valueOf]; ring

/-- R112: the rows of the words of the first factor, from word `pos` up. -/
theorem valueOf_accumulateRows (acc b a : List Word) (pos : Nat) :
    valueOf (accumulateRows acc b a pos) ≡ valueOf acc + 2 ^ (32 * pos) * (valueOf a * valueOf b)
      [MOD 2 ^ (32 * acc.length)] := by
  induction a generalizing acc pos with
  | nil => simp [accumulateRows, valueOf, Nat.ModEq.rfl]
  | cons m ms ih =>
    have hrest := ih (accumulateRow acc m b pos) (pos + 1)
    rw [length_accumulateRow] at hrest
    calc valueOf (accumulateRows acc b (m :: ms) pos)
        ≡ valueOf (accumulateRow acc m b pos) + 2 ^ (32 * (pos + 1)) * (valueOf ms * valueOf b)
          [MOD 2 ^ (32 * acc.length)] := hrest
      _ ≡ valueOf acc + 2 ^ (32 * pos) * (m.toNat * valueOf b) + 2 ^ (32 * (pos + 1)) * (valueOf ms * valueOf b)
          [MOD 2 ^ (32 * acc.length)] := (valueOf_accumulateRow ..).add_right _
      _ = valueOf acc + 2 ^ (32 * pos) * (valueOf (m :: ms) * valueOf b) := by rw [valueOf]; ring

/-- R112: len a + len b words hold every product of len a by len b words. -/
theorem valueOf_mul_lt (a b : List Word) : valueOf a * valueOf b < 2 ^ (32 * (a.length + b.length)) := by
  rw [Nat.mul_add, Nat.pow_add]
  exact Nat.mul_lt_mul'' (valueOf_lt a) (valueOf_lt b)

/-- Settles O23: accumulator and product agree modulo 2^(32 (len a + len b)), and both are below it. -/
theorem gradeSchoolProduct : Obligations.GradeSchoolProduct := by
  intro a b
  refine ⟨length_mulWords a b, ?_⟩
  have hmod := valueOf_accumulateRows (List.replicate (a.length + b.length) 0) b a 0
  have hlt := valueOf_lt (mulWords a b)
  rw [length_mulWords] at hlt
  rw [valueOf_replicate_zero, List.length_replicate, Nat.mul_zero, Nat.pow_zero, Nat.one_mul, Nat.zero_add] at hmod
  exact hmod.eq_of_lt_of_lt hlt (valueOf_mul_lt a b)

end Sys2Proof.Machine
end

section
/-! Modular arithmetic (R130 to R134): the check of the modulus, then one canonical write of a result up to it. -/

namespace Sys2Proof.Machine

/-- R130: a command that checks its modulus and then writes a result no larger than it has written that result, which fits
there, or has raised E_DIVZERO. -/
theorem modularWrite_exact {i : Instr} {s : State} {d c : RegId} {v : Nat} (hm : 16 ≤ s.cfg.maxw) (hs : s.regsWf)
    (hi : exec i s = if s.x c = 0 then raise .divzero s else succeed (s.writeValue d v)) (hv : 0 < s.x c → v ≤ s.x c) :
    (s.x c ≠ 0 → ∃ t, exec i s = .next t ∧ WroteOne s t d v) ∧
      (s.x c = 0 → exec i s = .next (errorState .divzero s)) :=
  ⟨fun hc => writes_of_le_x hm hs c (hv (Nat.pos_of_ne_zero hc)) (hi.trans (if_neg hc)), fun hc => hi.trans (if_pos hc)⟩

/-- R134, for a modulus and a divisor that are not 0. -/
theorem exec_divm_of_ne_zero {s : State} {b c : RegId} (hc : s.x c ≠ 0) (hb : s.x b ≠ 0) (d a : RegId) :
    exec (.divm d a b c) s = succeed (s.writeValue d (s.x a / s.x b % s.x c)) := by
  rw [exec, execDivm, if_neg hc, if_neg hb, restoringDivide_eq _ (Nat.pos_of_ne_zero hb)]

/-- Settles O25: a residue is below its modulus, and DIVM checks the divisor only after the modulus. -/
theorem modularCommandsReduce : Obligations.ModularCommandsReduce := by
  intro s d a b c hm hs
  obtain ⟨hadd, hadd0⟩ := modularWrite_exact (i := .addm d a b c) hm hs rfl fun hc => (Nat.mod_lt _ hc).le
  obtain ⟨hsub, hsub0⟩ := modularWrite_exact (i := .subm d a b c) hm hs rfl fun hc => (residue_lt _ hc).le
  obtain ⟨hmul, hmul0⟩ := modularWrite_exact (i := .mulm d a b c) hm hs rfl fun hc => (Nat.mod_lt _ hc).le
  refine ⟨fun hc => ⟨hadd hc, hsub hc, hmul hc, fun hb => ?_, fun hb => ?_⟩,
    fun hc => ⟨hadd0 hc, hsub0 hc, hmul0 hc, ?_⟩⟩
  · have hle : s.x a / s.x b % s.x c ≤ s.x c := (Nat.mod_lt _ (Nat.pos_of_ne_zero hc)).le
    exact writes_of_le_x hm hs c hle (exec_divm_of_ne_zero hc hb d a)
  · exact (if_neg hc).trans (if_pos hb)
  · exact if_pos hc

end Sys2Proof.Machine
end

section
/-! EXPM (R135): what the square-and-multiply loop computes. -/

namespace Sys2Proof.Machine

/-- One turn of the loop of R135, at bit `i` of the exponent. -/
def squareMultiply (g e m i acc : Nat) : Nat := if e.testBit i then acc * acc % m * g % m else acc * acc % m

theorem expLoop_succ (g e m n acc : Nat) : expLoop g e m (n + 1) acc = expLoop g e m n (squareMultiply g e m n acc) := rfl

theorem squareMultiply_lt {m : Nat} (hm : 0 < m) (g e i acc : Nat) : squareMultiply g e m i acc < m := by
  unfold squareMultiply
  split <;> exact Nat.mod_lt _ hm

/-- A turn doubles the exponent that the accumulator stands for and adds the bit. -/
theorem squareMultiply_modEq (g e m i acc : Nat) :
    squareMultiply g e m i acc ≡ acc ^ 2 * g ^ (e.testBit i).toNat [MOD m] := by
  have hsq : acc * acc % m ≡ acc ^ 2 [MOD m] := pow_two acc ▸ Nat.mod_modEq _ _
  unfold squareMultiply
  split_ifs with hbit
  · rw [hbit, Bool.toNat_true, pow_one]
    exact (Nat.mod_modEq _ _).trans (hsq.mul_right g)
  · rw [Bool.eq_false_of_not_eq_true hbit, Bool.toNat_false, pow_zero, mul_one]
    exact hsq

/-- The loop over the lowest `n` bits of the exponent squares the accumulator `n` times and multiplies by the power
that those bits give. -/
theorem expLoop_modEq (g e m n acc : Nat) : expLoop g e m n acc ≡ acc ^ 2 ^ n * g ^ (e % 2 ^ n) [MOD m] := by
  induction n generalizing acc with
  | zero => simp [expLoop, Nat.mod_one, Nat.ModEq.refl]
  | succ n ih =>
    calc expLoop g e m (n + 1) acc
        ≡ squareMultiply g e m n acc ^ 2 ^ n * g ^ (e % 2 ^ n) [MOD m] := ih _
      _ ≡ (acc ^ 2 * g ^ (e.testBit n).toNat) ^ 2 ^ n * g ^ (e % 2 ^ n) [MOD m] :=
        ((squareMultiply_modEq g e m n acc).pow _).mul_right _
      _ = acc ^ 2 ^ (n + 1) * g ^ (e % 2 ^ (n + 1)) := by rw [Nat.mod_pow_succ, Nat.toNat_testBit]; ring

/-- After at least one turn the accumulator is reduced. -/
theorem expLoop_succ_lt {m : Nat} (hm : 0 < m) (g e n acc : Nat) : expLoop g e m (n + 1) acc < m := by
  induction n generalizing acc with
  | zero => exact squareMultiply_lt hm g e 0 acc
  | succ n ih => exact ih _

/-- R135: the accumulator starts at 1 unreduced, so that exponent 0, for which no turn is taken, gives 1 also for
modulus 1. -/
theorem expMod_eq (g e : Nat) {m : Nat} (hm : 0 < m) : expMod g e m = if e = 0 then 1 else g ^ e % m := by
  split_ifs with he
  · rw [he]
    rfl
  · have hmod : expMod g e m ≡ g ^ e [MOD m] := by
      have hloop := expLoop_modEq g e m (bitlen e) 1
      rwa [one_pow, one_mul, Nat.mod_eq_of_lt (lt_two_pow_bitlen e)] at hloop
    have hlt : expMod g e m < m := by
      rw [expMod, bitlen, if_neg he]
      exact expLoop_succ_lt hm g e _ 1
    exact (Nat.mod_eq_of_lt hlt).symm.trans hmod

/-- Settles O26: the modular write of `expMod`, whose closed form is `expMod_eq`. -/
theorem expmIsPowerMod : Obligations.ExpmIsPowerMod := by
  intro s d a b c hm hs
  obtain ⟨hexp, hexp0⟩ := modularWrite_exact (i := .expm d a b c) hm hs rfl (expMod_le _ _)
  refine ⟨fun hc => ?_, hexp0⟩
  rw [← expMod_eq _ _ (Nat.pos_of_ne_zero hc)]
  exact hexp hc

end Sys2Proof.Machine
end

section
/-! Shift, bit and compare commands (R150 to R154). -/

namespace Sys2Proof.Machine

theorem State.argInt_of_pending {s : State} {p : Pending} (hp : s.pending = some p) : s.argInt = p.arg.toInt := by
  rw [State.argInt, State.capturedArg, hp]

/-- Settles O27: SHIFT is the write-or-E_CAP operation on a product by a power of 2, or on a quotient, which is at most the
source's value and so always fits. -/
theorem shiftBySignedCount : Obligations.ShiftBySignedCount := by
  intro s p d a hp hm hs
  rw [← State.argInt_of_pending hp]
  have hleft (hn : 0 ≤ s.argInt) : exec (.shift d a) s = writeOrCap s d (s.x a * 2 ^ s.argInt.toNat) :=
    execShift_of_nonneg (Int.toNat_of_nonneg hn).symm d a
  obtain ⟨hwrites, hcap⟩ := writeOrCap_exact s d (s.x a * 2 ^ s.argInt.toNat)
  refine ⟨fun hn hfit => hleft hn ▸ hwrites hfit, fun hn hlt => (hleft hn).trans (hcap hlt), fun hn => ?_⟩
  have hright : exec (.shift d a) s = writeOrCap s d (s.x a / 2 ^ (-s.argInt).toNat) :=
    execShift_of_neg (by omega) (by omega) d a
  have hfit : clen (s.x a / 2 ^ (-s.argInt).toNat) ≤ s.cfg.maxw :=
    State.representable_of_le_x a (Nat.div_le_self _ _) hm hs
  exact ⟨_, hright.trans (writeOrCap_of_le hfit d), wroteOne_writeValue hfit d⟩

/-- R31, R224: a command that ends with a write of FLAGS has written FLAGS and no more. -/
theorem wroteFlags_complete (s : State) (f : Flags) : WroteFlags s ({ s with flags := f }.complete .ok) f :=
  ⟨rfl, rfl, completed_complete ⟨rfl, rfl, rfl, rfl, rfl, rfl, rfl, rfl⟩⟩

/-- Settles O28: the value is below 2^(32 LEN), so its bits from there up are the 0 that TESTBIT gives
(`State.testedBit_eq_testBit`). -/
theorem testbitReadsTheBit : Obligations.TestbitReadsTheBit := by
  intro s p a hp hs
  rw [← State.argNat_of_pending hp, ← Nat.testBit_eq_decide_div_mod_eq, ← State.testedBit_eq_testBit hs a]
  exact ⟨_, rfl, wroteFlags_complete s (s.flags.setT (s.testedBit a)), fun hle => if_neg (Nat.not_lt.2 hle)⟩

/-- R152, for an index below 32 LEN. -/
theorem exec_setbit_of_lt {s : State} {d : RegId} (h : s.argNat < 32 * s.len d) :
    exec (.setbit d) s = succeed (s.setReg d ((s.reg d).setWord (s.argNat / 32)
      (s.word d (s.argNat / 32) ||| BitVec.ofNat 32 (2 ^ (s.argNat % 32))))) := if_pos h

/-- R152, for an index at or above 32 LEN. -/
theorem exec_setbit_of_le {s : State} {d : RegId} (h : 32 * s.len d ≤ s.argNat) : exec (.setbit d) s = succeed s :=
  if_neg (Nat.not_lt.2 h)

/-- Settles O29: below 32 LEN it is the word write of `State.setWord_effect`, since LEN is at most MAXW. -/
theorem setbitSetsOneBit : Obligations.SetbitSetsOneBit := by
  intro s p d hp hs
  rw [← State.argNat_of_pending hp]
  rcases Nat.lt_or_ge s.argNat (32 * s.len d) with hlt | hle
  · have hj : s.argNat / 32 < s.cfg.maxw := (Nat.div_lt_of_lt_mul hlt).trans_le (hs d).1
    obtain ⟨hword, hwords, hlen, hkept⟩ := State.setWord_effect hs d hj _
    exact ⟨_, exec_setbit_of_lt hlt, hlen, fun _ => ⟨hword, hwords⟩, fun hle => absurd hlt (Nat.not_lt.2 hle), hkept, rfl,
      completed_setReg s d _⟩
  · obtain ⟨hflags, hregs, hcompleted⟩ := wroteFlags_complete s s.flags
    exact ⟨_, exec_setbit_of_le hle, rfl, fun hlt => absurd hlt (Nat.not_lt.2 hle), fun _ => hregs, fun _ _ => rfl, hflags,
      hcompleted⟩

/-- Settles O30: CMP ends with the comparison of the two values and ISZ with the test for 0, written to FLAGS alone. -/
theorem cmpAndIszCompareValues : Obligations.CmpAndIszCompareValues := fun s a b =>
  ⟨⟨_, rfl, wroteFlags_complete s (s.flags.compare (s.x a) (s.x b))⟩,
    ⟨_, rfl, wroteFlags_complete s (s.flags.setT (decide (s.x a = 0)))⟩⟩

end Sys2Proof.Machine
end

section
/-! The functions of the digests (R176). -/

namespace Sys2Proof.Machine

/-- R176: the two parts of a rotation share no bit, so they add up. -/
theorem toNat_rotr {w r : Nat} (x : BitVec w) (h : r ≤ w) :
    (rotr r x).toNat = x.toNat / 2 ^ r + x.toNat * 2 ^ (w - r) % 2 ^ w := by
  have hw : 2 ^ w = 2 ^ r * 2 ^ (w - r) := by rw [← Nat.pow_add, Nat.add_sub_cancel' h]
  have hlow : x.toNat / 2 ^ r < 2 ^ (w - r) := Nat.div_lt_of_lt_mul (hw ▸ x.isLt)
  have hhigh : x.toNat * 2 ^ (w - r) % 2 ^ w = 2 ^ (w - r) * (x.toNat % 2 ^ r) := by
    rw [hw, Nat.mul_mod_mul_right, Nat.mul_comm]
  rw [rotr, BitVec.toNat_or, BitVec.toNat_ushiftRight, BitVec.toNat_shiftLeft, Nat.shiftRight_eq_div_pow,
    Nat.shiftLeft_eq, hhigh, Nat.or_comm, ← Nat.two_pow_add_eq_or_of_lt hlow, Nat.add_comm]

theorem getLsbD_ch {w i : Nat} (x y z : BitVec w) (h : i < w) :
    (ch x y z).getLsbD i = ((x.getLsbD i && y.getLsbD i) ^^ (!x.getLsbD i && z.getLsbD i)) := by
  simp [ch, h]

theorem getLsbD_maj {w : Nat} (x y z : BitVec w) (i : Nat) : (maj x y z).getLsbD i =
    (((x.getLsbD i && y.getLsbD i) ^^ (x.getLsbD i && z.getLsbD i)) ^^ (y.getLsbD i && z.getLsbD i)) := by
  simp [maj]

/-- Settles O35: a rotation adds its two parts (`toNat_rotr`), and the counts stand in the parameters of each digest. -/
theorem hashFunctions : Obligations.HashFunctions :=
  ⟨fun _ r x h => ⟨toNat_rotr x h, (BitVec.toNat_ushiftRight x r).trans (Nat.shiftRight_eq_div_pow _ r)⟩,
    fun _ i x y z h => ⟨getLsbD_ch x y z h, getLsbD_maj x y z i⟩,
    fun _ => ⟨rfl, rfl, rfl, rfl⟩, fun _ => ⟨rfl, rfl, rfl, rfl⟩⟩

end Sys2Proof.Machine
end

section
/-! Padding and blocks (R173, R174). -/

namespace Sys2Proof.Machine

/-- R173: the padding fills the last block. -/
theorem mod_add_padZeros {w : Nat} (p : DigestParams w) (hB : 0 < p.blockBits) (l : Nat) :
    (l + 1 + padZeros p l + p.lenBits) % p.blockBits = 0 := by
  have hdiv := Nat.div_add_mod (l + 1 + p.lenBits) p.blockBits
  have hlt := Nat.mod_lt (l + 1 + p.lenBits) hB
  have hfill : l + 1 + p.lenBits + (p.blockBits - (l + 1 + p.lenBits) % p.blockBits) =
      p.blockBits * ((l + 1 + p.lenBits) / p.blockBits + 1) := by rw [Nat.mul_succ]; omega
  rw [Nat.add_right_comm, padZeros, Nat.add_mod_mod, hfill, Nat.mul_mod_right]

/-- R173: fewer zero bits do not fill the last block. -/
theorem mod_add_ne_zero_of_lt_padZeros {w : Nat} (p : DigestParams w) {l k : Nat} (hk : k < padZeros p l) :
    (l + 1 + k + p.lenBits) % p.blockBits ≠ 0 := by
  unfold padZeros at hk
  have hgap := hk.trans_le (Nat.mod_le _ _)
  have hpos : (l + 1 + p.lenBits) % p.blockBits ≠ 0 := fun h => by simp [h] at hk
  rw [Nat.add_right_comm, ← Nat.mod_add_mod, Nat.mod_eq_of_lt (by omega)]
  omega

theorem paddedMessage_eq {w : Nat} (p : DigestParams w) (m n : Nat) : paddedMessage p m n =
    m * 2 ^ (1 + padZeros p (8 * n) + p.lenBits) + 2 ^ (padZeros p (8 * n) + p.lenBits) + 8 * n := rfl

/-- R174: N blocks hold the padded message. -/
theorem blockBits_mul_blockCount {w : Nat} (p : DigestParams w) (hB : 0 < p.blockBits) (n : Nat) :
    p.blockBits * blockCount p n = 8 * n + 1 + padZeros p (8 * n) + p.lenBits :=
  Nat.mul_div_cancel' (Nat.dvd_of_mod_eq_zero (mod_add_padZeros p hB (8 * n)))

/-- R173: the padded message fits in its number of bits. -/
theorem paddedMessage_lt {w : Nat} (p : DigestParams w) {m n : Nat} (hB : 0 < p.blockBits) (hm : m < 2 ^ (8 * n))
    (hn : 8 * n < 2 ^ p.lenBits) : paddedMessage p m n < 2 ^ (p.blockBits * blockCount p n) := by
  have hlow : 8 * n < 2 ^ (padZeros p (8 * n) + p.lenBits) :=
    hn.trans_le (Nat.pow_le_pow_right (by omega) (Nat.le_add_left _ _))
  have hone : 2 ^ (1 + padZeros p (8 * n) + p.lenBits) = 2 * 2 ^ (padZeros p (8 * n) + p.lenBits) := by
    rw [Nat.add_assoc, Nat.add_comm, Nat.pow_succ']
  calc paddedMessage p m n < (m + 1) * 2 ^ (1 + padZeros p (8 * n) + p.lenBits) := by
        rw [paddedMessage_eq, Nat.add_mul, Nat.one_mul, hone]; omega
    _ ≤ 2 ^ (8 * n) * 2 ^ (1 + padZeros p (8 * n) + p.lenBits) := Nat.mul_le_mul_right _ hm
    _ = 2 ^ (p.blockBits * blockCount p n) := by
        rw [blockBits_mul_blockCount p hB, ← Nat.pow_add]; congr 1; omega

/-- A fold over one more element of a list is one more step. -/
theorem foldl_take_succ {α β : Type} (f : β → α → β) (b : β) (l : List α) (d : α) {i : Nat} (h : i < l.length) :
    (l.take (i + 1)).foldl f b = f ((l.take i).foldl f b) (l.getD i d) := by
  rw [← List.take_concat_get' l i h, List.foldl_append, List.getD_eq_getElem l d h, List.foldl_cons, List.foldl_nil]

/-- R174: the first i blocks, end to end, are the leading bits of the padded message. -/
theorem foldl_take_blocksOf {w : Nat} (p : DigestParams w) {m n i : Nat}
    (hlt : paddedMessage p m n < 2 ^ (p.blockBits * blockCount p n)) (hi : i ≤ blockCount p n) :
    ((blocksOf p m n).take i).foldl (fun acc b => acc * 2 ^ p.blockBits + b) 0 =
      paddedMessage p m n / 2 ^ (p.blockBits * (blockCount p n - i)) := by
  induction i with
  | zero => simp [Nat.div_eq_of_lt hlt]
  | succ i ih =>
    have hpow : 2 ^ (p.blockBits * (blockCount p n - i)) =
        2 ^ (p.blockBits * (blockCount p n - (i + 1))) * 2 ^ p.blockBits := by
      rw [← Nat.pow_add, ← Nat.mul_succ]; congr 2; omega
    have hblock : (blocksOf p m n).getD i 0 = blockAt p m n (i + 1) := blocksOf_getD p m n (Nat.le_add_left 1 i) hi
    rw [foldl_take_succ _ _ _ 0 (by simpa using hi), ih (by omega), hblock, blockAt, hpow, ← Nat.div_div_eq_div_mul,
      Nat.div_add_mod']

/-- R174: the blocks, end to end, are the padded message. -/
theorem foldl_blocksOf {w : Nat} (p : DigestParams w) {m n : Nat}
    (hlt : paddedMessage p m n < 2 ^ (p.blockBits * blockCount p n)) :
    (blocksOf p m n).foldl (fun acc b => acc * 2 ^ p.blockBits + b) 0 = paddedMessage p m n := by
  have h := foldl_take_blocksOf p hlt (Nat.le_refl _)
  rwa [← blocksOf_length p m, List.take_length, Nat.sub_self, Nat.mul_zero, Nat.pow_zero, Nat.div_one] at h

theorem lt_of_mem_blocksOf {w : Nat} (p : DigestParams w) {m n b : Nat} (h : b ∈ blocksOf p m n) : b < 2 ^ p.blockBits := by
  obtain ⟨i, -, rfl⟩ := List.mem_map.1 h
  exact blockAt_lt p m n (i + 1)

/-- Settles O33: the zero bits are those to the next multiple of the block size, and N blocks hold the padded message
(`paddedMessage_lt`), so that no bit of it is cut off. -/
theorem paddingFillsBlocks : Obligations.PaddingFillsBlocks := fun _ p m n hB hm hn =>
  ⟨mod_add_padZeros p hB (8 * n), fun _ hk => mod_add_ne_zero_of_lt_padZeros p hk, blockBits_mul_blockCount p hB n,
    blocksOf_length p m n, fun _ h1 hN => blocksOf_getD p m n h1 hN, fun _ hb => lt_of_mem_blocksOf p hb,
    foldl_blocksOf p (paddedMessage_lt p hB hm hn)⟩

end Sys2Proof.Machine
end

section
/-! Schedule, rounds and chaining (R174, R175, R177, R178). -/

namespace Sys2Proof.Machine

/-- R175: the schedule begins with its window. -/
theorem extendSchedule_getD_of_lt {w : Nat} (p : DigestParams w) (n : Nat) {win : List (BitVec w)} (hwin : win.length = 16)
    {t : Nat} (ht : t < 16) : (extendSchedule p n win).getD t 0 = win.getD t 0 := by
  induction n generalizing win t with
  | zero => rfl
  | succ n ih =>
    obtain ⟨x, xs, rfl⟩ := List.exists_cons_of_length_eq_add_one hwin
    have hxs : xs.length = 15 := by simpa using hwin
    cases t with
    | zero => rfl
    | succ t =>
      rw [extendSchedule, List.getD_cons_succ, ih (by simp [hxs]) (by omega), List.tail_cons,
        List.getD_append _ _ _ _ (by omega), List.getD_cons_succ]

/-- R175: each word after the window comes from the sixteen before it. -/
theorem extendSchedule_getD_add {w : Nat} (p : DigestParams w) {n : Nat} {win : List (BitVec w)} (hwin : win.length = 16)
    {t : Nat} (ht : t < n) : (extendSchedule p n win).getD (t + 16) 0 =
      nextWord p ((extendSchedule p n win).drop t) := by
  induction n generalizing win t with
  | zero => omega
  | succ n ih =>
    have hnext : (win.tail ++ [nextWord p win]).length = 16 := by simp [hwin]
    cases t with
    | zero =>
      have h (j : Nat) (hj : j < 16) := extendSchedule_getD_of_lt p (n + 1) hwin hj
      rw [List.drop_zero, nextWord, h 14 (by omega), h 9 (by omega), h 1 (by omega), h 0 (by omega),
        extendSchedule, List.getD_cons_succ, extendSchedule_getD_of_lt p n hnext (by omega),
        List.getD_append_right _ _ _ _ (by simp [hwin])]
      simp [hwin, nextWord]
    | succ t => exact ih hnext (by omega)

theorem schedule_getD_of_lt {w : Nat} (p : DigestParams w) (blk : Nat) {t : Nat} (ht : t < 16) :
    (schedule p blk).getD t 0 = BitVec.ofNat w (blk / 2 ^ (w * (15 - t))) :=
  (extendSchedule_getD_of_lt p _ (splitWords_length w 16 blk) ht).trans (splitWords_getD w blk ht)

theorem schedule_getD_of_le {w : Nat} (p : DigestParams w) (blk : Nat) {t : Nat} (ht : 16 ≤ t) (hk : t < p.k.length) :
    (schedule p blk).getD t 0 = smallSigma p.smallSigma1 ((schedule p blk).getD (t - 2) 0) + (schedule p blk).getD (t - 7) 0 +
      smallSigma p.smallSigma0 ((schedule p blk).getD (t - 15) 0) + (schedule p blk).getD (t - 16) 0 := by
  obtain ⟨u, rfl⟩ := Nat.exists_eq_add_of_le' ht
  have h := extendSchedule_getD_add p (splitWords_length w 16 blk) (t := u) (n := p.k.length - 16) (by omega)
  simp only [nextWord, List.getD_eq_getElem?_getD, List.getElem?_drop] at h
  simp only [List.getD_eq_getElem?_getD]
  exact h

/-- The working words before round t of a block (R177). -/
def workingWords {w : Nat} (p : DigestParams w) (st : HashState w) (blk t : Nat) : HashState w :=
  ((p.k.zip (schedule p blk)).take t).foldl (hashRound p) st

/-- R177: round t takes K_t and W_t. -/
theorem workingWords_succ {w : Nat} (p : DigestParams w) (h : 16 ≤ p.k.length) (st : HashState w) (blk : Nat) {t : Nat}
    (ht : t < p.k.length) : workingWords p st blk (t + 1) =
      hashRound p (workingWords p st blk t) (p.k.getD t 0, (schedule p blk).getD t 0) := by
  have hs : t < (schedule p blk).length := by rwa [schedule_length p blk h]
  have hz : t < (p.k.zip (schedule p blk)).length := by rw [List.length_zip]; omega
  rw [workingWords, foldl_take_succ _ _ _ (0, 0) hz, List.getD_eq_getElem _ _ hz, List.getElem_zip,
    ← List.getD_eq_getElem _ 0 ht, ← List.getD_eq_getElem _ 0 hs, workingWords]

/-- R177: the compression adds the words after the last round. -/
theorem compress_eq {w : Nat} (p : DigestParams w) (st : HashState w) (blk : Nat) :
    compress p st blk = st.addWords (workingWords p st blk p.k.length) := by
  rw [compress, workingWords, List.take_of_length_le (by rw [List.length_zip]; omega)]

theorem HashState.addWords_getD {w : Nat} (x y : HashState w) {j : Nat} (hj : j < 8) :
    (x.addWords y).toList.getD j 0 = x.toList.getD j 0 + y.toList.getD j 0 := by
  interval_cases j <;> rfl

/-- The state words after the first i blocks of a message (R178). -/
def chainedState {w : Nat} (p : DigestParams w) (m n i : Nat) : HashState w :=
  ((blocksOf p m n).take i).foldl (compress p) p.iv

theorem chainedState_succ {w : Nat} (p : DigestParams w) (m : Nat) {n i : Nat} (hi : i < blockCount p n) :
    chainedState p m n (i + 1) = compress p (chainedState p m n i) (blockAt p m n (i + 1)) := by
  rw [chainedState, foldl_take_succ _ _ _ 0 (by simpa using hi), ← blocksOf_getD p m n (Nat.le_add_left 1 i) hi]
  rfl

theorem hashMessage_eq_chainedState {w : Nat} (p : DigestParams w) (m n : Nat) :
    hashMessage p m n = chainedState p m n (blockCount p n) := by
  rw [chainedState, List.take_of_length_le (blocksOf_length p m n).le, hashMessage]

/-- Settles O34: the rounds and the chaining are folds, whose states after each element are `workingWords` and
`chainedState`. -/
theorem scheduleRoundsAndChaining : Obligations.ScheduleRoundsAndChaining := by
  intro w p hk
  refine ⟨fun blk t => ⟨schedule_length p blk hk, schedule_getD_of_lt p blk, schedule_getD_of_le p blk⟩,
    fun st blk => ⟨workingWords p st blk, rfl, fun t ht => ?_, fun j hj => ?_⟩,
    fun m n => ⟨chainedState p m n, rfl, fun i hi => chainedState_succ p m hi, hashMessage_eq_chainedState p m n⟩⟩
  · rw [workingWords_succ p hk st blk ht]
    exact ⟨rfl, rfl, rfl, rfl, rfl, rfl, rfl, rfl⟩
  · rw [compress_eq p st blk, HashState.addWords_getD _ _ hj]

end Sys2Proof.Machine
end

section
/-! Hash constants (R180 to R183): the tables checked as roots of primes. -/

namespace Sys2Proof.Machine

/-- The list of the numbers below `n` with a property begins with the first of all that have it. -/
theorem getD_filter_range (p : Nat → Prop) [DecidablePred p] {n t : Nat} (h : t < ((List.range n).filter p).length) :
    ((List.range n).filter p).getD t 0 = Nat.nth p t := by
  induction n with
  | zero => simp at h
  | succ n ih =>
    rw [List.range_succ, List.filter_append] at h ⊢
    rcases Nat.lt_or_ge t ((List.range n).filter p).length with hlt | hge
    · rw [List.getD_append _ _ _ _ hlt, ih hlt]
    · have hn : p n := by
        by_contra hn
        simp [hn] at h
        omega
      have hcount : Nat.count p n = ((List.range n).filter p).length := List.countP_eq_length_filter
      have hlast : [n].filter p = [n] := by simp [hn]
      rw [hlast, List.length_append, List.length_singleton] at h
      have ht : t = Nat.count p n := by omega
      rw [hlast, List.getD_append_right _ _ _ _ hge, ht, Nat.nth_count hn, hcount, Nat.sub_self]
      rfl

/-- Trial division below `b`: of the numbers from 2 up, none but `n` itself divides `n`. -/
abbrev TrialPrime (b n : Nat) : Prop := 2 ≤ n ∧ ∀ d < b, 2 ≤ d → d ∣ n → d = n

/-- Trial division below `b` decides primality below b². -/
theorem prime_iff_trialPrime {n b : Nat} (h : n < b * b) : n.Prime ↔ TrialPrime b n := by
  refine ⟨fun hn => ⟨hn.two_le, fun d _ hd hdvd => (hn.eq_one_or_self_of_dvd d hdvd).resolve_left (by omega)⟩, ?_⟩
  rintro ⟨hn, htrial⟩
  by_contra hprime
  have hsq : n.minFac * n.minFac ≤ n := by
    rw [← pow_two]
    exact Nat.minFac_sq_le_self (by omega) hprime
  have hfac : n.minFac = n :=
    htrial _ (Nat.mul_self_lt_mul_self_iff.1 (hsq.trans_lt h)) (Nat.minFac_prime (by omega)).two_le (Nat.minFac_dvd n)
  exact hprime (hfac ▸ Nat.minFac_prime (by omega))

/-- The first 80 primes. -/
def firstPrimes : List Nat :=
  [ 2, 3, 5, 7, 11, 13, 17, 19, 23, 29, 31, 37, 41, 43, 47, 53, 59, 61, 67, 71, 73, 79, 83, 89, 97, 101, 103,
    107, 109, 113, 127, 131, 137, 139, 149, 151, 157, 163, 167, 173, 179, 181, 191, 193, 197, 199, 211, 223,
    227, 229, 233, 239, 241, 251, 257, 263, 269, 271, 277, 281, 283, 293, 307, 311, 313, 317, 331, 337, 347,
    349, 353, 359, 367, 373, 379, 383, 389, 397, 401, 409 ]

theorem firstPrimes_eq_filter_trialPrime : firstPrimes = (List.range 410).filter (TrialPrime 21 ·) := by decide +kernel

theorem firstPrimes_eq_filter_prime : firstPrimes = (List.range 410).filter Nat.Prime := by
  rw [firstPrimes_eq_filter_trialPrime]
  refine List.filter_congr fun n hn => ?_
  have hlt : n < 410 := List.mem_range.1 hn
  rw [decide_eq_decide, prime_iff_trialPrime (b := 21) (by omega)]

@[simp] theorem length_firstPrimes : firstPrimes.length = 80 := rfl

theorem firstPrimes_getD {t : Nat} (h : t < 80) : firstPrimes.getD t 0 = Nat.nth Nat.Prime t := by
  rw [← length_firstPrimes, firstPrimes_eq_filter_prime] at h
  rw [firstPrimes_eq_filter_prime, getD_filter_range _ h]

/-- `k` is the fraction of an n-th root of `q` whose integer part is below 8, as it is for all the constants: what
`FractionalRoot` asks, in a form that evaluates. -/
abbrev FractionOfSmallRoot {w : Nat} (n q : Nat) (k : BitVec w) : Prop :=
  ∃ i < 8, (2 ^ w * i + k.toNat) ^ n ≤ q * 2 ^ (n * w) ∧ q * 2 ^ (n * w) < (2 ^ w * i + k.toNat + 1) ^ n

theorem FractionOfSmallRoot.fractionalRoot {w n q : Nat} {k : BitVec w} (h : FractionOfSmallRoot n q k) :
    FractionalRoot n q k := by
  obtain ⟨i, -, hle, hlt⟩ := h
  refine ⟨2 ^ w * i + k.toNat, hle, hlt, BitVec.eq_of_toNat_eq ?_⟩
  rw [BitVec.toNat_ofNat, Nat.mul_add_mod, Nat.mod_eq_of_lt k.isLt]

/-- A table that passes the check beside the primes is a table of roots of primes. -/
theorem fractionalRoot_getD {w n : Nat} {k : List (BitVec w)} (hlen : k.length ≤ 80)
    (h : ∀ e ∈ firstPrimes.zip k, FractionOfSmallRoot n e.1 e.2) {t : Nat} (ht : t < k.length) :
    FractionalRoot n (Nat.nth Nat.Prime t) (k.getD t 0) := by
  have hprime : t < firstPrimes.length := ht.trans_le hlen
  have hzip : t < (firstPrimes.zip k).length := by rw [List.length_zip]; omega
  have hroot := (h _ (List.getElem_mem hzip)).fractionalRoot
  rw [List.getElem_zip] at hroot
  rwa [← firstPrimes_getD hprime, List.getD_eq_getElem _ _ hprime, List.getD_eq_getElem _ _ ht]

/-- R180: the table, beside the primes. -/
theorem k256_cubeRoots : ∀ e ∈ firstPrimes.zip k256, FractionOfSmallRoot 3 e.1 e.2 := by decide +kernel
/-- R182: the table, beside the primes. -/
theorem k512_cubeRoots : ∀ e ∈ firstPrimes.zip k512, FractionOfSmallRoot 3 e.1 e.2 := by decide +kernel
/-- R181: the table, beside the primes. -/
theorem iv256_squareRoots : ∀ e ∈ firstPrimes.zip iv256.toList, FractionOfSmallRoot 2 e.1 e.2 := by decide +kernel
/-- R183: the table, beside the primes. -/
theorem iv512_squareRoots : ∀ e ∈ firstPrimes.zip iv512.toList, FractionOfSmallRoot 2 e.1 e.2 := by decide +kernel

end Sys2Proof.Machine
end

section
/-! The digest commands (R179, R184, R185). -/

namespace Sys2Proof.Machine

/-- Word k from below, of the number that a list of words spells most significant first, is word k from the list's end. -/
theorem ofNat_foldl_shiftIn_div {w : Nat} (l : List (BitVec w)) {k : Nat} (h : k < l.length) :
    BitVec.ofNat w (l.foldl (fun acc x => acc * 2 ^ w + x.toNat) 0 / 2 ^ (w * k)) = l.getD (l.length - 1 - k) 0 := by
  induction l using List.reverseRecOn generalizing k with
  | nil => simp at h
  | append_singleton l x ih =>
    rw [List.foldl_append, List.foldl_cons, List.foldl_nil, List.length_append, List.length_singleton, Nat.add_sub_cancel]
    cases k with
    | zero =>
      rw [Nat.mul_zero, Nat.pow_zero, Nat.div_one, Nat.sub_zero, List.getD_append_right _ _ _ _ (Nat.le_refl _), Nat.sub_self]
      apply BitVec.eq_of_toNat_eq
      rw [BitVec.toNat_ofNat, Nat.mul_add_mod_self_right, Nat.mod_eq_of_lt x.isLt]
      rfl
    | succ k =>
      have hk : k < l.length := by simpa using h
      have hpow : 2 ^ (w * (k + 1)) = 2 ^ w * 2 ^ (w * k) := by rw [← Nat.pow_add, Nat.mul_succ, Nat.add_comm]
      have hdrop (a : Nat) : (a * 2 ^ w + x.toNat) / 2 ^ w = a := by
        rw [Nat.mul_comm, Nat.mul_add_div (Nat.two_pow_pos w), Nat.div_eq_of_lt x.isLt, Nat.add_zero]
      rw [hpow, ← Nat.div_div_eq_div_mul, hdrop, ih hk, List.getD_append _ _ _ _ (by omega)]
      congr 1
      omega

/-- R179: word k of the digest is H_(7-k). -/
theorem ofNat_digestValue_div {w : Nat} (st : HashState w) {k : Nat} (h : k < 8) :
    BitVec.ofNat w (digestValue st / 2 ^ (w * k)) = st.toList.getD (7 - k) 0 :=
  ofNat_foldl_shiftIn_div st.toList h

/-- R179: 32 bits from within a 64-bit word of a number. -/
theorem ofNat_div_eq_extractLsb' (v k : Nat) {lo : Nat} (hlo : lo ≤ 32) :
    BitVec.ofNat 32 (v / 2 ^ (64 * k + lo)) = (BitVec.ofNat 64 (v / 2 ^ (64 * k))).extractLsb' lo 32 := by
  apply BitVec.eq_of_getLsbD_eq
  intro i hi
  have hlt : lo + i < 64 := by omega
  rw [BitVec.getLsbD_extractLsb', BitVec.getLsbD_ofNat, BitVec.getLsbD_ofNat, Nat.testBit_div_two_pow,
    Nat.testBit_div_two_pow, decide_eq_true hlt, Bool.true_and]
  congr 2
  omega

/-- R184, R185: a byte length or a value out of range. -/
theorem runDigest_of_outOfRange {w : Nat} (p : DigestParams w) {s : State} {a : RegId} (d : RegId)
    (h : 4 * s.cfg.maxw < s.argNat ∨ 2 ^ (8 * s.argNat) ≤ s.x a) : runDigest p d a s = .next (errorState .arg s) := by
  unfold runDigest
  rcases h with hlong | hlarge
  · exact if_pos hlong
  · rw [if_pos hlarge]
    exact ite_self _

/-- R179: the write of a value that its LEN holds. -/
theorem State.word_writeFixed {s : State} {d : RegId} {n v : Nat} (hv : v < 2 ^ (32 * n)) :
    (∀ j, j < s.cfg.maxw → (s.writeFixed d n v).word d j = BitVec.ofNat 32 (v / 2 ^ (32 * j))) ∧
      ∀ j, n ≤ j → j < s.cfg.maxw → (s.writeFixed d n v).word d j = 0 := by
  have hword (j : Nat) (hj : j < s.cfg.maxw) : (s.writeFixed d n v).word d j = BitVec.ofNat 32 (v / 2 ^ (32 * j)) := by
    rw [State.word, State.reg_writeFixed, if_pos rfl, Reg.word_ofValue hj]
  refine ⟨hword, fun j hn hj => ?_⟩
  rw [hword j hj, Nat.div_eq_of_lt (hv.trans_le (Nat.pow_le_pow_right (by omega) (by omega)))]
  rfl

/-- R179, R184, R185: a byte length and a value in range. The eight words of the digest fill the LEN it is written with. -/
theorem runDigest_of_inRange {w : Nat} (p : DigestParams w) (hw : w * 8 = 32 * p.resultLen) {s : State} {a : RegId}
    (d : RegId) (hlen : s.argNat ≤ 4 * s.cfg.maxw) (hval : s.x a < 2 ^ (8 * s.argNat)) :
    ∃ t, runDigest p d a s = .next t ∧ t.len d = p.resultLen ∧
      (∀ j, j < s.cfg.maxw →
        t.word d j = BitVec.ofNat 32 (digestValue (hashMessage p (s.x a) s.argNat) / 2 ^ (32 * j))) ∧
      (∀ j, p.resultLen ≤ j → j < s.cfg.maxw → t.word d j = 0) ∧
      RegsKept [d] s t ∧ t.flags = s.flags ∧ Completed .ok s t := by
  have hexec : runDigest p d a s =
      succeed (s.writeFixed d p.resultLen (digestValue (hashMessage p (s.x a) s.argNat))) := by
    rw [runDigest, if_neg (Nat.not_lt.2 hlen), if_neg (Nat.not_le.2 hval)]
  obtain ⟨hword, hzero⟩ := State.word_writeFixed (s := s) (d := d) (hw ▸ digestValue_lt (hashMessage p (s.x a) s.argNat))
  refine ⟨_, hexec, ?_, hword, hzero, RegsKept_setReg s d _, rfl, completed_setReg s d _⟩
  rw [State.len_complete, State.len, State.reg_writeFixed, if_pos rfl, Reg.len_ofValue]

/-- Settles O31: the tables pass the check beside the primes, and word k of the register is word k of the digest. -/
theorem digest256WritesEightWords : Obligations.Digest256WritesEightWords := by
  refine ⟨⟨rfl, rfl, rfl, fun t ht => fractionalRoot_getD (by decide) k256_cubeRoots ht,
    fun j hj => fractionalRoot_getD (by decide) iv256_squareRoots hj⟩, fun s p d a hp hm => ?_⟩
  rw [← State.argNat_of_pending hp]
  refine ⟨runDigest_of_outOfRange _ d, fun hlen hval => ?_⟩
  obtain ⟨t, hexec, hlenD, hword, hzero, hframe⟩ := runDigest_of_inRange digest256Params rfl d hlen hval
  exact ⟨t, hexec, hlenD, fun k hk => (hword k (by omega)).trans (ofNat_digestValue_div _ hk), hzero, hframe⟩

/-- Settles O32: as O31, with the halves of word k of the digest in words 2k and 2k + 1. -/
theorem digest512WritesSixteenWords : Obligations.Digest512WritesSixteenWords := by
  refine ⟨⟨rfl, rfl, rfl, fun t ht => fractionalRoot_getD (by decide) k512_cubeRoots ht,
    fun j hj => fractionalRoot_getD (by decide) iv512_squareRoots hj⟩, fun s p d a hp hm => ?_⟩
  rw [← State.argNat_of_pending hp]
  refine ⟨runDigest_of_outOfRange _ d, fun hlen hval => ?_⟩
  obtain ⟨t, hexec, hlenD, hword, hzero, hframe⟩ := runDigest_of_inRange digest512Params rfl d hlen hval
  refine ⟨t, hexec, hlenD, fun k hk => ?_, hzero, hframe⟩
  have hlow : 32 * (2 * k) = 64 * k + 0 := by omega
  have hhigh : 32 * (2 * k + 1) = 64 * k + 32 := by omega
  rw [hword _ (by omega), hword _ (by omega), ← ofNat_digestValue_div _ hk, hlow, hhigh]
  exact ⟨ofNat_div_eq_extractLsb' _ k (by omega), ofNat_div_eq_extractLsb' _ k (by omega)⟩

end Sys2Proof.Machine
end

section
/-! GCD, EEA and MINV (R200 to R202): the loops of Euclid against the library's. -/

namespace Sys2Proof.Machine

/-- R200: the second argument falls at every turn, so more turns than it are enough. -/
theorem gcdLoop_eq_gcd {n p q : Nat} (h : q < n) : gcdLoop n p q = Nat.gcd p q := by
  induction n generalizing p q with
  | zero => omega
  | succ n ih =>
    rw [gcdLoop]
    split_ifs with hq
    · rw [hq, Nat.gcd_zero_right]
    · have hlt : p % q < q := Nat.mod_lt p (Nat.pos_of_ne_zero hq)
      rw [ih (by omega), Nat.gcd_comm, ← Nat.gcd_rec, Nat.gcd_comm]

theorem euclid_eq_gcd (p q : Nat) : euclid p q = Nat.gcd p q := gcdLoop_eq_gcd (Nat.lt_succ_self q)

/-- Settles O36: the canonical write of `euclid`, which is at most the larger of the two values. -/
theorem gcdIsGreatestDivisor : Obligations.GcdIsGreatestDivisor := by
  intro s d a b hm hs
  rw [← euclid_eq_gcd]
  exact ⟨_, rfl, wroteOne_writeValue (State.representable_of_le_max a b (euclid_le _ _) hm hs) d⟩

/-- R10: congruent integers have one residue. -/
theorem residue_congr {a b : Int} {m : Nat} (h : a ≡ b [ZMOD m]) : residue a m = residue b m := congrArg Int.toNat h

/-- R10: a residue is congruent to the integer it is taken of. -/
theorem residue_modEq (a : Int) {m : Nat} (hm : 0 < m) : (residue a m : Int) ≡ a [ZMOD m] := by
  rw [residue, Int.toNat_of_nonneg (Int.emod_nonneg a (by omega))]
  exact Int.mod_modEq a m

theorem residue_zero (m : Nat) : residue 0 m = 0 := by simp [residue]

theorem residue_one (m : Nat) : residue 1 m = 1 % m := rfl

/-- R201: reducing a coefficient before a turn does not change its residue after it. -/
theorem residue_residue_sub_mul (a b q : Int) {m : Nat} (hm : 0 < m) :
    residue (residue a m - q * residue b m) m = residue (a - q * b) m :=
  residue_congr ((residue_modEq a hm).sub ((residue_modEq b hm).mul_left q))

/-- A result of the library's extended Euclid on (b, a), which is the gcd and the integer coefficients of b and of a, as
R201 returns it for (a, b). -/
def Bezout.ofXgcd (m : Nat) (r : Nat × Int × Int) : Bezout := ⟨r.1, residue r.2.2 m, residue r.2.1 m⟩

/-- R201: the loop that reduces its coefficients at every turn returns the residues of what the library's loop, which does
not reduce them, returns. -/
theorem eeaLoop_eq_ofXgcd {m n r0 r1 : Nat} (hm : 0 < m) (h : r1 < n) (s0 s1 t0 t1 : Int) :
    eeaLoop m n r0 r1 (residue s0 m) (residue s1 m) (residue t0 m) (residue t1 m) =
      .ofXgcd m (Nat.xgcdAux r1 t1 s1 r0 t0 s0) := by
  induction n generalizing r0 r1 s0 s1 t0 t1 with
  | zero => omega
  | succ n ih =>
    rw [eeaLoop]
    split_ifs with hr
    · rw [hr, Nat.xgcd_zero_left, Bezout.ofXgcd]
    · have hpos : 0 < r1 := Nat.pos_of_ne_zero hr
      have hlt : r0 % r1 < n := (Nat.mod_lt r0 hpos).trans_le (Nat.lt_succ_iff.1 h)
      have hmod : r0 - r0 / r1 * r1 = r0 % r1 := Nat.sub_eq_of_eq_add (Nat.mod_add_div' r0 r1).symm
      rw [Nat.xgcdAux_rec hpos, ← ih hlt, ← hmod]
      simp only [residue_residue_sub_mul _ _ _ hm, Int.natCast_ediv]

/-- R201, outside the degenerate case. -/
theorem eea_of_ne_zero {a b m : Nat} (hm : 0 < m) (ha : a ≠ 0) (hb : b ≠ 0) :
    eea a b m = ⟨Nat.gcd a b, residue (Nat.gcdB b a) m, residue (Nat.gcdA b a) m⟩ := by
  have hloop := eeaLoop_eq_ofXgcd (r0 := a) hm (Nat.lt_succ_self b) 1 0 0 1
  rw [Nat.xgcdAux_val, Nat.gcd_comm, Nat.xgcd_val, residue_zero, residue_one] at hloop
  rw [eea, if_neg (not_or.2 ⟨ha, hb⟩)]
  exact hloop

/-- R201: the degenerate case. -/
theorem eea_of_eq_zero {a b : Nat} (h : a = 0 ∨ b = 0) (m : Nat) : eea a b m = ⟨0, 0, 0⟩ := if_pos h

/-- R201: the reduced coefficients combine to the gcd modulo `m`. -/
theorem eea_bezout {a b m : Nat} (hm : 0 < m) (ha : a ≠ 0) (hb : b ≠ 0) :
    (eea a b m).s * a + (eea a b m).t * b ≡ (eea a b m).g [MOD m] := by
  rw [eea_of_ne_zero hm ha hb, ← Int.natCast_modEq_iff]
  push_cast
  calc (residue (Nat.gcdB b a) m * a + residue (Nat.gcdA b a) m * b : Int)
      ≡ Nat.gcdB b a * a + Nat.gcdA b a * b [ZMOD m] :=
        ((residue_modEq _ hm).mul_right _).add ((residue_modEq _ hm).mul_right _)
    _ = Nat.gcd a b := by rw [Nat.gcd_comm, Nat.gcd_eq_gcd_ab]; ring

/-- R25, R201: three canonical writes to pairwise distinct registers hold all three values, and write no other register. -/
theorem holds_writeValue_three {s : State} {d e f : RegId} {g u v : Nat} (hde : d ≠ e) (hdf : d ≠ f) (hef : e ≠ f)
    (hg : clen g ≤ s.cfg.maxw) (hu : clen u ≤ s.cfg.maxw) (hv : clen v ≤ s.cfg.maxw) :
    let t := (((s.writeValue d g).writeValue e u).writeValue f v).complete .ok
    Holds t d g ∧ Holds t e u ∧ Holds t f v ∧ RegsKept [d, e, f] s t :=
  ⟨State.holds_writeValue hg (by simp [hde, hdf]) rfl, State.holds_writeValue hu (by simp [hef]) rfl,
    State.holds_writeValue hv (by simp) rfl,
    ((RegsKept_writeValue s d g).append (RegsKept_writeValue _ e u)).append (RegsKept_writeValue _ f v)⟩

/-- R201: EEA with distinct destinations and a modulus that is not 0 writes the three results of `eea`, which all fit. -/
theorem eea_writes {s : State} {d e f c : RegId} (hm : 16 ≤ s.cfg.maxw) (hs : s.regsWf) (hde : d ≠ e) (hdf : d ≠ f)
    (hef : e ≠ f) (hc : s.x c ≠ 0) (a b : RegId) :
    ∃ t, exec (.eea d e f a b c) s = .next t ∧ Holds t d (eea (s.x a) (s.x b) (s.x c)).g ∧
      Holds t e (eea (s.x a) (s.x b) (s.x c)).s ∧ Holds t f (eea (s.x a) (s.x b) (s.x c)).t ∧
      RegsKept [d, e, f] s t ∧ t.flags = s.flags ∧ Completed .ok s t := by
  obtain ⟨hg, hst, htt⟩ := eea_within (s.x a) (s.x b) (Nat.pos_of_ne_zero hc)
  obtain ⟨hd, he, hf, hkept⟩ := holds_writeValue_three hde hdf hef (State.representable_of_le_max a b hg hm hs)
    (State.representable_of_le_x c hst.le hm hs) (State.representable_of_le_x c htt.le hm hs)
  exact ⟨_, (if_neg (by simp [hde, hdf, hef])).trans (if_neg hc), hd, he, hf, hkept, rfl,
    completed_complete ⟨rfl, rfl, rfl, rfl, rfl, rfl, rfl, rfl⟩⟩

theorem Holds.x_eq {t : State} {r : RegId} {v : Nat} (h : Holds t r v) : t.x r = v := by
  obtain ⟨-, hx, -⟩ := h
  exact hx

/-- Settles O37: what `eea_writes` writes is known from `eea_of_ne_zero` and `eea_bezout`, or from `eea_of_eq_zero`. -/
theorem eeaGivesBezout : Obligations.EeaGivesBezout := by
  intro s d e f a b c hm hs hde hdf hef
  refine ⟨fun hc ha hb => ?_, fun hc hab => ?_, fun hc => (if_neg (by simp [hde, hdf, hef])).trans (if_pos hc)⟩
  · obtain ⟨t, hexec, hd, he, hf, hframe⟩ := eea_writes hm hs hde hdf hef hc a b
    have hpos : 0 < s.x c := Nat.pos_of_ne_zero hc
    have hbezout : (t.x e * s.x a + t.x f * s.x b) % s.x c = t.x d % s.x c := by
      rw [hd.x_eq, he.x_eq, hf.x_eq]
      exact eea_bezout hpos ha hb
    rw [eea_of_ne_zero hpos ha hb] at hd he hf
    exact ⟨t, hexec, hd, he, hf, hbezout, hframe⟩
  · have hwrites := eea_writes hm hs hde hdf hef hc a b
    rwa [eea_of_eq_zero hab] at hwrites

/-- R202: the coefficient that MINV writes. -/
theorem eea_t_of_pos {m : Nat} (hm : 0 < m) (x : Nat) :
    (eea m x m).t = if x = 0 then 0 else residue (Nat.gcdA x m) m := by
  split_ifs with hx
  · rw [eea_of_eq_zero (.inr hx)]
  · rw [eea_of_ne_zero hm hm.ne' hx]

/-- R202: when MINV sets T. -/
theorem eea_g_eq_one_iff {m : Nat} (hm : 0 < m) (x : Nat) : (eea m x m).g = 1 ↔ x ≠ 0 ∧ Nat.gcd x m = 1 := by
  by_cases hx : x = 0
  · rw [eea_of_eq_zero (.inr hx)]
    simp [hx]
  · simp [eea_of_ne_zero hm hm.ne' hx, hx, Nat.gcd_comm m x]

/-- R202: when the gcd of EEA(m, x, m) is 1, its coefficient of x is the inverse of x modulo m. -/
theorem eea_inverse {x m : Nat} (hm : 0 < m) (hg : (eea m x m).g = 1) : x * (eea m x m).t ≡ 1 [MOD m] := by
  obtain ⟨hx, -⟩ := (eea_g_eq_one_iff hm x).1 hg
  calc x * (eea m x m).t = 0 + (eea m x m).t * x := by ring
    _ ≡ (eea m x m).s * m + (eea m x m).t * x [MOD m] :=
      (Nat.modEq_zero_iff_dvd.2 (Nat.dvd_mul_left m _)).symm.add_right _
    _ ≡ (eea m x m).g [MOD m] := eea_bezout hm hm.ne' hx
    _ = 1 := hg

/-- Settles O38: MINV writes the coefficient of `eea_t_of_pos`, which is below the modulus, and in T whether the gcd of EEA is
1 (`eea_g_eq_one_iff`, `eea_inverse`). -/
theorem minvInverts : Obligations.MinvInverts := by
  intro s d a c hm hs
  refine ⟨fun hc => ?_, fun hc => if_pos hc⟩
  have hpos : 0 < s.x c := Nat.pos_of_ne_zero hc
  have hfit : clen (eea (s.x c) (s.x a) (s.x c)).t ≤ s.cfg.maxw :=
    State.representable_of_le_x c (eea_within _ _ hpos).t_lt.le hm hs
  have hd (T : Bool) : Holds (((s.writeValue d (eea (s.x c) (s.x a) (s.x c)).t).writeT T).complete .ok) d _ :=
    State.holds_writeValue hfit (by simp) rfl
  refine ⟨_, if_neg hc, eea_t_of_pos hpos _ ▸ hd _, ?_, fun hT => ?_, RegsKept_writeValue s d _,
    completed_complete ⟨rfl, rfl, rfl, rfl, rfl, rfl, rfl, rfl⟩⟩
  · rw [← decide_eq_decide.2 (eea_g_eq_one_iff hpos (s.x a))]
    rfl
  · rw [(hd _).x_eq]
    exact eea_inverse hpos (of_decide_eq_true hT)

end Sys2Proof.Machine
end

section
/-! ISPRIME (R203, R204): the witness test in closed form, and why a prime passes it. -/

namespace Sys2Proof.Machine

/-- R203: halving takes every factor 2 out, in as many turns as there are. -/
theorem halve_two_pow_mul {d : Nat} (hd : d % 2 = 1) {fuel j : Nat} (hj : j ≤ fuel) (k : Nat) :
    halve fuel (2 ^ j * d) k = (d, k + j) := by
  induction fuel generalizing j k with
  | zero =>
    obtain rfl : j = 0 := Nat.le_zero.1 hj
    simp [halve]
  | succ fuel ih =>
    cases j with
    | zero => simp [halve, hd]
    | succ j =>
      have hdouble : 2 ^ (j + 1) * d = 2 * (2 ^ j * d) := by ring
      rw [halve, if_pos (by omega), hdouble, Nat.mul_div_cancel_left _ two_pos, ih (by omega), Nat.add_right_comm,
        Nat.add_assoc]

/-- R203: for n - 1 = 2^k * d with d odd, `halve` finds d and k. -/
theorem halve_self {m k d : Nat} (hd : d % 2 = 1) (hm : m = 2 ^ k * d) : halve m m 0 = (d, k) := by
  have hk : k ≤ m := hm ▸ Nat.lt_two_pow_self.le.trans (Nat.le_mul_of_pos_right _ (by omega))
  simpa [← hm] using halve_two_pow_mul hd hk 0

/-- `StrongProbablePrime` for one way to write n - 1 as 2^k * d. -/
def StrongAt (n wt k d : Nat) : Prop :=
  wt ^ d % n = 1 ∨ wt ^ d % n = n - 1 ∨ ∃ r, 1 ≤ r ∧ r < k ∧ wt ^ (2 ^ r * d) % n = n - 1

/-- There is only one way to write n - 1 as 2^k * d with d odd: the one that `halve` finds. -/
theorem strongProbablePrime_iff {n k d : Nat} (hd : d % 2 = 1) (hn : n - 1 = 2 ^ k * d) (wt : Nat) :
    StrongProbablePrime n wt ↔ StrongAt n wt k d := by
  refine ⟨fun h => h k d hd hn, fun h k' d' hd' hn' => ?_⟩
  obtain ⟨rfl, rfl⟩ := Prod.mk.inj ((halve_self hd hn).symm.trans (halve_self hd' hn'))
  exact h

/-- R203: the loop looks for n - 1 among the next `k` squares of `y`. -/
theorem squareLoop_iff {n k y : Nat} : squareLoop n k y = true ↔ ∃ r < k, y ^ 2 ^ (r + 1) % n = n - 1 := by
  induction k generalizing y with
  | zero => simp [squareLoop]
  | succ k ih =>
    have hsquare (r : Nat) : (y * y % n) ^ 2 ^ (r + 1) % n = y ^ 2 ^ (r + 1 + 1) % n := by
      rw [← Nat.pow_mod, ← pow_two, ← pow_mul, ← pow_succ']
    rw [Nat.exists_lt_succ_left, squareLoop, Bool.if_true_left, Bool.or_eq_true, decide_eq_true_eq, ih, zero_add, pow_one,
      pow_two]
    simp only [hsquare]

/-- R203: a witness below n - 1 passes exactly by its d-th power or one of the next k - 1 squares. -/
theorem witnessPasses_iff {n k d : Nat} (hn : 0 < n) (hd : d % 2 = 1) (wt : Nat) :
    witnessPasses n d k wt = true ↔ (wt < n - 1 → StrongAt n wt k d) := by
  have hexp : expMod wt d n = wt ^ d % n := by rw [expMod_eq wt d hn, if_neg (by omega)]
  have hloop : squareLoop n (k - 1) (wt ^ d % n) = true ↔ ∃ r, 1 ≤ r ∧ r < k ∧ wt ^ (2 ^ r * d) % n = n - 1 := by
    have hpow (r : Nat) : (wt ^ d % n) ^ 2 ^ r % n = wt ^ (2 ^ r * d) % n := by
      rw [← Nat.pow_mod, ← pow_mul, Nat.mul_comm]
    simp only [squareLoop_iff, hpow]
    constructor
    · rintro ⟨r, hr, h⟩
      exact ⟨r + 1, by omega, by omega, h⟩
    · rintro ⟨r, hr, hrk, h⟩
      exact ⟨r - 1, by omega, by rwa [Nat.sub_add_cancel hr]⟩
  unfold witnessPasses StrongAt
  rw [← hloop, ← hexp]
  split_ifs with hwt
  · simp [hwt, or_assoc]
  · simp [hwt]

/-- R203: Miller-Rabin in closed form. -/
theorem isProbablePrime_iff (m : MrTail) (n : Nat) : isProbablePrime m n = true ↔
    n = 3 ∨ (3 < n ∧ ∀ wt ∈ witnesses m, wt < n - 1 → StrongProbablePrime n wt) := by
  unfold isProbablePrime
  split_ifs with hlt heq
  · exact iff_of_false id (by omega)
  · simp [heq]
  · obtain ⟨k, d, hodd, hn⟩ := Nat.exists_eq_two_pow_mul_odd (n := n - 1) (by omega)
    have hd : d % 2 = 1 := Nat.odd_iff.1 hodd
    have hpos : 0 < n := by omega
    have h3 : 3 < n := by omega
    simp only [halve_self hd hn, List.all_eq_true, witnessPasses_iff hpos hd, strongProbablePrime_iff hd hn, heq, h3,
      false_or, true_and]

/-- Settles O39: ISPRIME writes `isProbablePrime` to T, whose closed form is `isProbablePrime_iff`. -/
theorem isprimeIsMillerRabin : Obligations.IsprimeIsMillerRabin := fun s a =>
  ⟨_, isProbablePrime s.cfg.mrTail (s.x a), rfl, wroteFlags_complete s (s.flags.setT _), isProbablePrime_iff _ _⟩

/-- Where 1 has no square roots but 1 and -1, an element that `k` squarings take to 1 is 1, or one of its squares before
the last is -1. -/
theorem eq_one_or_pow_eq_neg_one {R : Type*} [CommRing R] [NoZeroDivisors R] {x : R} {k : Nat} (h : x ^ 2 ^ k = 1) :
    x = 1 ∨ ∃ r < k, x ^ 2 ^ r = -1 := by
  induction k with
  | zero => exact .inl (by simpa using h)
  | succ k ih =>
    rw [pow_succ, pow_mul] at h
    rcases sq_eq_one_iff.1 h with h | h
    · exact (ih h).imp_right fun ⟨r, hr, hneg⟩ => ⟨r, by omega, hneg⟩
    · exact .inr ⟨k, by omega, h⟩

theorem mod_eq_of_cast_eq_neg_one {n a : Nat} (hn : 1 < n) (h : (a : ZMod n) = -1) : a % n = n - 1 := by
  have hcast : (a : ZMod n) = (n - 1 : Nat) := by rw [h, Nat.cast_pred (by omega), ZMod.natCast_self, zero_sub]
  rw [(ZMod.natCast_eq_natCast_iff' _ _ _).1 hcast, Nat.mod_eq_of_lt (by omega)]

/-- R203: a prime passes every witness, by Fermat's little theorem and `eq_one_or_pow_eq_neg_one` in the field of residues. -/
theorem strongProbablePrime_of_prime {n wt : Nat} (hn : n.Prime) (h0 : 0 < wt) (hlt : wt < n) : StrongProbablePrime n wt := by
  intro k d _ hk
  have : Fact n.Prime := ⟨hn⟩
  have hunit : (wt : ZMod n) ≠ 0 := (ZMod.natCast_eq_zero_iff wt n).not.2 (Nat.not_dvd_of_pos_of_lt h0 hlt)
  have hfermat : ((wt : ZMod n) ^ d) ^ 2 ^ k = 1 := by
    rw [← pow_mul, Nat.mul_comm, ← hk, ZMod.pow_card_sub_one_eq_one hunit]
  have hneg {r : Nat} (h : ((wt : ZMod n) ^ d) ^ 2 ^ r = -1) : wt ^ (2 ^ r * d) % n = n - 1 :=
    mod_eq_of_cast_eq_neg_one hn.one_lt (by rw [← h]; push_cast; ring)
  rcases eq_one_or_pow_eq_neg_one hfermat with hone | ⟨r, hr, h⟩
  · have hcast : ((wt ^ d : Nat) : ZMod n) = (1 : Nat) := by exact_mod_cast hone
    exact .inl (((ZMod.natCast_eq_natCast_iff' _ _ _).1 hcast).trans (Nat.mod_eq_of_lt hn.one_lt))
  · rcases Nat.eq_zero_or_pos r with rfl | hpos
    · exact .inr (.inl (by simpa using hneg h))
    · exact .inr (.inr ⟨r, hpos, hr, hneg h⟩)

/-- R203: an even number fails witness 2: n - 1 is odd, so the one power that is tested is even, and 1 and n - 1 are odd. -/
theorem not_strongProbablePrime_two_of_even {n : Nat} (h4 : 4 ≤ n) (heven : n % 2 = 0) : ¬StrongProbablePrime n 2 := by
  rw [strongProbablePrime_iff (k := 0) (d := n - 1) (by omega) (by simp)]
  have hpow : 2 ^ (n - 1) % n % 2 = 0 := by
    rw [Nat.mod_mod_of_dvd _ (Nat.dvd_of_mod_eq_zero heven)]
    exact Nat.mod_eq_zero_of_dvd (dvd_pow_self 2 (by omega))
  rintro (h | h | ⟨r, -, hr, -⟩) <;> omega

/-- R204: every witness of a legal build is positive. -/
theorem MrTail.pos_of_mem_witnesses {m : MrTail} (hm : m.legal) {wt : Nat} (h : wt ∈ witnesses m) : 0 < wt := by
  obtain ⟨h0, h1, h2, -⟩ := hm
  simp only [witnesses, List.mem_cons, List.not_mem_nil, or_false] at h
  omega

/-- Settles O40: the closed form of Miller-Rabin (`isProbablePrime_iff`), for primes by `strongProbablePrime_of_prime` and for
even numbers by witness 2. -/
theorem primesPassIsprime : Obligations.PrimesPassIsprime := by
  intro s a hlegal
  obtain ⟨-, -, -, htail⟩ := hlegal
  have hT := isProbablePrime_iff s.cfg.mrTail (s.x a)
  refine ⟨_, rfl, fun hprime h3 => hT.2 ?_, fun h3 => Bool.eq_false_iff.2 (mt hT.1 ?_),
    fun h4 heven => Bool.eq_false_iff.2 (mt hT.1 ?_)⟩
  · exact h3.eq_or_lt.imp Eq.symm fun h3 => ⟨h3, fun wt hwt hlt =>
      strongProbablePrime_of_prime hprime (MrTail.pos_of_mem_witnesses htail hwt) (by omega)⟩
  · omega
  · rintro (h3 | ⟨-, hpass⟩)
    · omega
    · exact not_strongProbablePrime_two_of_even h4 heven (hpass 2 (.head _) (by omega))

end Sys2Proof.Machine
end

section
/-! Completion and error codes (R220, R224 to R226). -/

namespace Sys2Proof.Machine

/-- Settles O5: the engine's turn runs the pending word, and a word that decodes is run as its command. -/
theorem stepRunsDecodedCommand : Obligations.StepRunsDecodedCommand := by
  intro s u p i hp hu hi
  have hpend : u.pending = some p := (engineMoves_pending hu).trans hp
  rw [step_engineMoves hu, engineTurn_of_pending hpend, runWord_of_decode hi]

/-- Settles O7: a command completes from registers and FLAGS it has written, the rest as it was (`exec_ends`). -/
theorem everyCommandCompletes : Obligations.EveryCommandCompletes := by
  intro i s
  obtain ⟨u, code, h, hw⟩ := exec_ends i s
  obtain ⟨regs, flags, rfl⟩ := hw.frame
  exact ⟨_, h, completed_complete ⟨rfl, rfl, rfl, rfl, rfl, rfl, rfl, rfl⟩⟩

/-- Settles O8: a command either raises an error from the state it began in, or writes and ends with OK (`exec_actsAlike`). -/
theorem errorsArePrecise : Obligations.ErrorsArePrecise := by
  intro i s t h hne
  rcases exec_actsAlike i s with ⟨code, -, -, hc⟩ | ⟨ws, g, -, -, -, hc⟩
  · cases (hc s (.refl i s)).symm.trans h
    rfl
  · cases (hc s (.refl i s)).symm.trans h
    exact absurd rfl hne

/-- A command that completes does so with OK or with one of `codes`. -/
def EndsWithin (codes : List ErrCode) (o : Host.Outcome State Fault Refusal) : Prop :=
  ∀ t, o = .next t → t.errcode = .ok ∨ t.errcode ∈ codes

namespace EndsWithin

variable {codes : List ErrCode} {code : ErrCode} {o : Host.Outcome State Fault Refusal} {c : Prop} [Decidable c]

theorem succeed (s : State) : EndsWithin codes (succeed s) := fun _ h => by
  cases h
  exact .inl rfl

theorem raise (h : code ∈ codes) (s : State) : EndsWithin codes (raise code s) := fun _ ht => by
  cases ht
  exact .inr h

/-- A check that raises an error, before the rest of a command. -/
theorem check {s : State} (h : code ∈ codes) (ho : EndsWithin codes o) :
    EndsWithin codes (if c then Machine.raise code s else o) := by
  split
  · exact raise h s
  · exact ho

theorem writeOrCap (h : .cap ∈ codes) (s : State) (d : RegId) (v : Nat) : EndsWithin codes (writeOrCap s d v) := by
  obtain ⟨-, hw⟩ | ⟨-, hw⟩ := writeOrCap_cases s d v
  · exact hw ▸ succeed _
  · exact hw ▸ raise h s

/-- A check that does not raise, as that of equal destinations in a well-formed command (R89). -/
theorem of_not {o' : Host.Outcome State Fault Refusal} (h : ¬c) (ho : EndsWithin codes o) :
    EndsWithin codes (if c then o' else o) := (if_neg h).symm ▸ ho

end EndsWithin

/-- R150: SHIFT ends with OK or E_CAP, whatever the sign of the count. -/
theorem execShift_endsWithin (d a : RegId) (s : State) : EndsWithin [.cap] (execShift d a s) := by
  unfold execShift
  split
  · split
    · exact .succeed _
    · exact .raise (.head _) s
  · exact .writeOrCap (.head _) s d _

/-- R152: SETBIT ends with OK, in range and out of range. -/
theorem execSetbit_endsWithin (d : RegId) (s : State) : EndsWithin [] (execSetbit d s) := by
  unfold execSetbit
  split
  · exact .succeed _
  · exact .succeed s

/-- R220: the checks of each command, in the order it makes them, raise only codes of its row. -/
theorem exec_endsWithin {i : Instr} (hi : i.wellFormed = true) (s : State) : EndsWithin (errorCodes i) (exec i s) := by
  cases i with
  | add | mul => exact .writeOrCap (.head _) s _ _
  | sub | divq | mod | addm | subm | mulm | expm | minv => exact .check (.head _) (.succeed _)
  | divm | digest256 | digest512 => exact .check (.head _) (.check (.head _) (.succeed _))
  | divrem d e =>
    have hne : ¬d = e := by simpa [Instr.wellFormed] using hi
    exact .of_not hne (.check (.head _) (.succeed _))
  | eea d e f =>
    have hne : ¬(d = e ∨ d = f ∨ e = f) := by simpa [Instr.wellFormed, and_assoc] using hi
    exact .of_not hne (.check (.head _) (.succeed _))
  | shift d a => exact execShift_endsWithin d a s
  | setbit d => exact execSetbit_endsWithin d s
  | mov | ldi | testbit | cmp | isz | gcd | isprime => exact .succeed _

/-- Settles O11, by `exec_endsWithin`. -/
theorem errorCodesOfEachCommand : Obligations.ErrorCodesOfEachCommand := fun _ s t hi h => exec_endsWithin hi s t h

end Sys2Proof.Machine
end

section
/-! Reset (R250, R251), alone and beside a completion. -/

namespace Sys2Proof.Machine

/-- R33, R251: a step on a CTRL write with bit 1 set resets the device. -/
theorem step_softReset {s : State} {rest : List Event} {v : Word} (hv : v.getLsbD 1 = true)
    (hs : s.inputs = memWrite s.cfg 0x004 v :: rest) : step s = .next (s.withInputs rest).resetDevice :=
  (step_of_memWrite hs).trans (congrArg _ (hostWrite_ctrl_reset _ hv))

/-- R250, R251: an engine turn, a completion included, leaves nothing behind that a reset keeps. -/
theorem engineTurn_resetDevice (s : State) : ∃ u, engineTurn s = .next u ∧ u.cfg = s.cfg ∧ u.inputs = s.inputs ∧
    ∀ l, (u.withInputs l).resetDevice = (s.withInputs l).resetDevice := by
  obtain ⟨-, h⟩ | ⟨-, u, code, h, hw⟩ := engineTurn_cases s
  · exact ⟨s, h, rfl, rfl, fun _ => rfl⟩
  · obtain ⟨regs, flags, rfl⟩ := hw.frame
    exact ⟨_, h, rfl, rfl, fun _ => rfl⟩

/-- R251: a completion just before a soft reset. -/
theorem run_engine_softReset (s : State) (rest : List Event) {v : Word} (hv : v.getLsbD 1 = true) :
    Sys2Proof.core.run 2 { s with inputs := .engine :: memWrite s.cfg 0x004 v :: rest } =
      .next (s.withInputs rest).resetDevice := by
  obtain ⟨u, hu, hcfg, hinputs, hreset⟩ := engineTurn_resetDevice (s.withInputs (memWrite s.cfg 0x004 v :: rest))
  have hwrite : u.inputs = memWrite u.cfg 0x004 v :: rest := hcfg ▸ hinputs
  have hturn : step { s with inputs := .engine :: memWrite s.cfg 0x004 v :: rest } = .next u := hu
  calc Sys2Proof.core.run 2 _
    _ = Sys2Proof.core.run 1 u := run_succ hturn 1
    _ = .next (u.withInputs rest).resetDevice := run_succ (step_softReset hv hwrite) 0
    _ = .next (s.withInputs rest).resetDevice := congrArg _ (hreset rest)

/-- R251: the completion's turn just after a soft reset, which has emptied PENDING. -/
theorem run_softReset_engine (s : State) (rest : List Event) {v : Word} (hv : v.getLsbD 1 = true) :
    Sys2Proof.core.run 2 { s with inputs := memWrite s.cfg 0x004 v :: .engine :: rest } =
      .next (s.withInputs rest).resetDevice := by
  have hturn : step (s.withInputs (.engine :: rest)).resetDevice = .next (s.withInputs rest).resetDevice :=
    engineTurn_idle (s := (s.withInputs rest).resetDevice) rfl
  exact (run_succ (step_softReset hv rfl) 1).trans (run_succ hturn 0)

/-- Settles O45: each order gives `State.resetDevice`, whose fields are the reset values of `resetValues`. -/
theorem resetEffect : Obligations.ResetEffect := by
  intro s rest v hv
  obtain ⟨hregs, -⟩ := resetValues s.cfg
  exact ⟨(s.withInputs rest).resetDevice, step_hardReset s rest, step_softReset hv rfl, hregs, rfl, rfl, rfl, rfl, rfl,
    rfl, rfl, rfl, rfl, rfl, rfl, run_engine_softReset s rest hv, run_softReset_engine s rest hv⟩

end Sys2Proof.Machine
end

section
/-! The operand load (R257): REGLEN, then the words of a value in any order. -/

namespace Sys2Proof.Machine

/-- The write of R257 that puts word `j` of `v` into its place in register `r`. -/
def wordWrite (c : Config) (r : RegId) (v j : Nat) : Event :=
  memWrite c (0x10000 + 0x1000 * r.val + 4 * j) (wordOf v j)

/-- The writes of `loadWords`, by position. -/
theorem loadWords_eq_map (c : Config) (r : RegId) (ws : List Word) (j : Nat) : loadWords c r ws j =
    (List.range ws.length).map fun i => memWrite c (0x10000 + 0x1000 * r.val + 4 * (j + i)) (ws.getD i 0) := by
  induction ws generalizing j with
  | nil => rfl
  | cons w ws ih => simp [loadWords, ih, List.range_succ_eq_map, Function.comp_def, Nat.add_right_comm, Nat.add_assoc]

/-- R257: the word writes of a value are those of its words. -/
theorem loadWords_toWords (c : Config) (r : RegId) (n v : Nat) :
    loadWords c r (toWords n v) 0 = (List.range n).map (wordWrite c r v) := by
  rw [loadWords_eq_map, toWords_length]
  refine List.map_congr_left fun j hj => ?_
  rw [toWords_getD n v j (List.mem_range.1 hj), Nat.zero_add]
  rfl

/-- The register holds `v` as the canonical write of R25 leaves it, but for the words `js`, which are yet to be written. -/
structure Reg.LoadedBut (x : Reg) (m v : Nat) (js : List Nat) : Prop where
  wf : x.wf m
  len_eq : x.len = clen v
  word_eq : ∀ j, j < m → j ∉ js → x.word j = wordOf v j

/-- R24: the words of a value from `clen` up are 0. -/
theorem wordOf_eq_zero {v j : Nat} (h : clen v ≤ j) : wordOf v j = 0 :=
  congrArg (BitVec.ofNat 32) (Nat.div_eq_of_lt (lt_of_clen_le h))

/-- R55: after the REGLEN write of a load only words below LEN are yet to be written. -/
theorem Reg.loadedBut_setLen {m v : Nat} {x : Reg} {js : List Nat} (h : x.wf m) (hv : clen v ≤ m)
    (hjs : ∀ j, j < clen v → j ∈ js) : (x.setLen (clen v)).LoadedBut m v js where
  wf := Reg.wf_setLen h hv
  len_eq := rfl
  word_eq j _ hj := by
    have hle : clen v ≤ j := Nat.not_lt.1 (mt (hjs j) hj)
    rw [Reg.word_setLen h hv, if_neg (Nat.not_lt.2 hle), wordOf_eq_zero hle]

/-- R56: a word write of a load leaves one word fewer to be written. -/
theorem Reg.LoadedBut.setWord {m v j : Nat} {x : Reg} {js : List Nat} (h : x.LoadedBut m v (j :: js)) (hj : j < clen v) :
    (x.setWord j (wordOf v j)).LoadedBut m v js where
  wf := Reg.wf_setWord h.wf (h.len_eq ▸ hj) _
  len_eq := h.len_eq
  word_eq k hk hkjs := by
    have hjm : j < m := hj.trans_le (h.len_eq ▸ h.wf.1)
    rw [Reg.word_setWord h.wf hjm]
    split
    · rename_i hkj
      rw [hkj]
    · rename_i hkj
      exact h.word_eq k hk (List.not_mem_cons_of_ne_of_not_mem hkj hkjs)

/-- With no word left to be written the register is as the canonical write leaves it. -/
theorem Reg.LoadedBut.eq_ofValue {m v : Nat} {x : Reg} (h : x.LoadedBut m v []) : x = Reg.ofValue m (clen v) v := by
  obtain ⟨⟨-, hlength, -⟩, hlen, hwords⟩ := h
  obtain ⟨len, w⟩ := x
  subst hlen
  refine congrArg (Reg.mk _) (List.ext_getElem (hlength.trans (toWords_length m v).symm) fun j hj hj' => ?_)
  have hjm : j < m := hlength ▸ hj
  have hword := (hwords j hjm List.not_mem_nil).trans (toWords_getD m v j hjm).symm
  rwa [Reg.word, List.getD_eq_getElem _ _ hj, List.getD_eq_getElem _ _ hj'] at hword

theorem State.setReg_setReg (s : State) (r : RegId) (x y : Reg) : (s.setReg r x).setReg r y = s.setReg r y := by
  simp [State.setReg]

/-- R56: a step on a word write below LEN, while BUSY = 0. -/
theorem step_wordWrite {s : State} {r : RegId} {x : Reg} {rest : List Event} {v j : Nat} (hp : s.pending = none)
    (hmax : s.cfg.maxw ≤ 1024) (hj : j < s.cfg.maxw) (hlen : j < x.len) :
    step ((s.setReg r x).withInputs (wordWrite s.cfg r v j :: rest)) =
      .next ((s.setReg r (x.setWord j (wordOf v j))).withInputs rest) := by
  have hr := r.isLt
  set u := (s.setReg r x).withInputs rest
  have hreg : u.reg r = x := by simp [u]
  have hlen' : j < u.len r := by rwa [State.len, hreg]
  have hwrite : u.setReg r ((u.reg r).setWord j (wordOf v j)) =
      (s.setReg r (x.setWord j (wordOf v j))).withInputs rest := by
    rw [hreg]
    exact congrArg (State.withInputs · rest) (State.setReg_setReg s r x _)
  rw [step_of_memWrite (s := (s.setReg r x).withInputs (wordWrite s.cfg r v j :: rest)) rfl, winReg_regword r (by omega)]
  exact congrArg _ ((hostWrite_regword_idle (s := u) hp r j _).trans ((writeRegword_of_lt (s := u) hj hlen' _).trans hwrite))

/-- R257: the writes of the words that are yet to be written, in whatever order, complete the canonical write. -/
theorem run_wordWrites {s : State} {r : RegId} {v : Nat} (hp : s.pending = none) (hmax : s.cfg.maxw ≤ 1024)
    (hv : clen v ≤ s.cfg.maxw) {js : List Nat} (hjs : ∀ j ∈ js, j < clen v) {x : Reg} (hx : x.LoadedBut s.cfg.maxw v js) :
    Sys2Proof.core.run js.length ((s.setReg r x).withInputs (js.map (wordWrite s.cfg r v))) =
      .next ((s.writeValue r v).withInputs []) := by
  induction js generalizing x with
  | nil =>
    obtain rfl := hx.eq_ofValue
    rfl
  | cons j js ih =>
    obtain ⟨hj, hjs⟩ := List.forall_mem_cons.1 hjs
    have hstep := step_wordWrite (r := r) (x := x) (rest := js.map (wordWrite s.cfg r v)) (v := v) hp hmax
      (hj.trans_le hv) (hx.len_eq ▸ hj)
    exact (run_succ hstep js.length).trans (ih hjs (hx.setWord hj))

/-- R55: a step on the REGLEN write of a load, while BUSY = 0. -/
theorem step_reglenWrite {s : State} {r : RegId} {n : Nat} {ws : List Event} (hp : s.pending = none)
    (hmax : s.cfg.maxw ≤ 1024) (hn : n ≤ s.cfg.maxw)
    (hs : s.inputs = memWrite s.cfg (0x100 + 4 * r.val) (BitVec.ofNat 32 n) :: ws) :
    step s = .next ((s.setReg r ((s.reg r).setLen n)).withInputs ws) := by
  have hr := r.isLt
  have hfield : reglenField (BitVec.ofNat 32 n) = n := reglenField_ofNat (by omega)
  rw [step_of_memWrite hs, winReg_reglen, hostWrite_reglen_idle (s := s.withInputs ws) hp,
    writeReglen_of_le (s := s.withInputs ws) (hfield.trans_le hn), hfield]
  rfl

/-- Settles O59: the REGLEN write leaves the words below LEN to be written (`Reg.loadedBut_setLen`), and the word writes
complete the canonical write in every order (`run_wordWrites`). -/
theorem operandLoadLoads : Obligations.OperandLoadLoads := by
  rintro s r v ws ⟨⟨-, hmax, -⟩, hregs, -⟩ hp hv
  refine ⟨loadWords_toWords s.cfg r (clen v) v, fun hperm hs => ?_⟩
  rw [loadWords_toWords] at hperm
  have horder : Relation.Comp (· = List.map (wordWrite s.cfg r v) ·) List.Perm ws (List.range (clen v)) := by
    rwa [List.eq_map_comp_perm]
  obtain ⟨js, rfl, hjs⟩ := horder
  have hmem (j : Nat) : j ∈ js ↔ j < clen v := hjs.mem_iff.trans List.mem_range
  have hlength : js.length = clen v := hjs.length_eq.trans List.length_range
  have hloaded := Reg.loadedBut_setLen (hregs r) hv fun j => (hmem j).2
  have hrun := run_wordWrites (r := r) hp hmax hv (fun j => (hmem j).1) hloaded
  rw [hlength] at hrun
  exact ⟨_, (run_succ (step_reglenWrite hp hmax hv hs) _).trans hrun,
    State.holds_writeValue (s := s) hv ((State.reg_writeValue s r r v).trans (if_pos rfl)) rfl, RegsKept_setReg s r _, rfl⟩

end Sys2Proof.Machine
end
